-- ==== Sys2Proof/Word.lean ====
section
/-! DEFINITION. The fixed-width words of the engine (00_scope.md R6, R7): every value is unsigned, bit 0 is the
least significant. Wrap-around (R8, R298) is by construction, since these are bit vectors. -/

namespace Sys2Proof

/-- The 8-bit byte: the unit of MEM, of the tables and of the datapath (R6, R61). -/
abbrev Byte := BitVec 8

/-- The 16-bit salt (R6, R29). -/
abbrev Salt := BitVec 16

/-- The 32-bit per-block key (R6, R22). -/
abbrev Key := BitVec 32

/-- The 9-bit selector SEL = DIR :: MODE (30_encoding.md R90). -/
abbrev Sel := BitVec 9

end Sys2Proof
end

