-- ==== Sys2Proof/Machine/Salt.lean ====
section
/-! DEFINITION. The wrapping arithmetic of 00_scope.md R8 and the three functions of the salt_scheduler_and_xor
(42_salt_scheduler.md R150 to R152), pure and without state of their own (R153). -/

namespace Sys2Proof.Machine

/-- `add8(a, b) = (a + b) mod 256` (R8). -/
def add8 (a b : Byte) : Byte := a + b

/-- `sub8(a, b) = (a - b) mod 256` (R8). -/
def sub8 (a b : Byte) : Byte := a - b

/-- `inc16(s) = (s + 1) mod 65536` (R8). -/
def inc16 (s : Salt) : Salt := s + 1#16

/-- The bitwise exclusive-or of two 16-bit values (R8). -/
def xor16 (a b : Salt) : Salt := a ^^^ b

/-- KEY[31:16] (R92). -/
def keyUpper (k : Key) : Salt := k.extractLsb' 16 16

/-- KEY[15:0] (R92). -/
def keyLower (k : Key) : Salt := k.extractLsb' 0 16

/-- `init(key)`: the exclusive-or of the two halves of the key (R150). -/
def saltInit (k : Key) : Salt := xor16 (keyUpper k) (keyLower k)

/-- The first component of `split(salt)`: SALT[7:0] (R151). -/
def saltLower (s : Salt) : Byte := s.extractLsb' 0 8

/-- The second component of `split(salt)`: SALT[15:8] (R151). -/
def saltUpper (s : Salt) : Byte := s.extractLsb' 8 8

/-- `advance(salt)`: plus one, modulo 65536 (R152). -/
def saltAdvance (s : Salt) : Salt := inc16 s

/-- The closed form of R155: the salt of byte `k` of a High call, `(init(KEY) + k) mod 65536`. -/
def saltAt (key : Key) (k : Nat) : Salt := saltInit key + BitVec.ofNat 16 k

end Sys2Proof.Machine
end

