-- ==== Sys2Proof/Config.lean ====
section
/-! DEFINITION. What an implementation fixes: the parameters of 00_scope.md R6, as one record that the machine takes
as an argument (it stands in State as a constant, log 7), and the free value. -/

namespace Sys2Proof

/-- A read-only memory of 256 words of 8 bits (40_tables.md R120, R121). -/
abbrev Table := Vector Byte 256

/-- The parameter TABLES (R6, R120): `high1` is T_HIGH1, `high2` is T_HIGH2, `comp` is T_COMP. -/
structure Tables where
  high1 : Table
  high2 : Table
  comp : Table
  deriving DecidableEq, Repr

/-- A run of addresses, `base` to `base + size - 1` as integers. -/
structure Region where
  base : Nat
  size : Nat
  deriving DecidableEq, Repr

/-- The parameters of R6 that are OPEN, and the platform's memory kind (20_memory.md R78, log 11).
N_ENGINES is the length of the machine's list of engines. -/
structure Params where
  /-- AW, the width of addresses, lengths and counts. -/
  aw : Nat
  /-- ENCODE_EXT: CTRL.DIR and the ENC commands exist. -/
  encodeExt : Bool
  /-- TABLES. -/
  tables : Tables
  /-- The address ranges that are not plain, backed, idempotent byte memory (R78). -/
  unbacked : List Region
  deriving DecidableEq, Repr

/-- FREE VALUE (log 2): what the k-th host read of an operand register never written since reset returns, before it is
cut to the register's width. 10_state.md R39: "a host read returns any value". Nothing constrains it. -/
opaque Config.unspecified : Nat → Nat

end Sys2Proof
end

