-- ==== Sys2Proof/Syntax.lean ====
section
/-! DEFINITION. The command set: one constructor per row of spec/opcode_table.json (30_encoding.md R93). No command
has an operand field: KEY, BUF and LEN are held in registers and never select (R90, R92). -/

namespace Sys2Proof

/-- The six commands (R93). The three `enc` commands exist only with ENCODE_EXT (R206). -/
inductive Instr where
  /-- DEC.NONE, 43_transform_decode.md R166. -/
  | decNone
  /-- DEC.COMP, 43_transform_decode.md R167. -/
  | decComp
  /-- DEC.HIGH, 43_transform_decode.md R168. -/
  | decHigh
  /-- ENC.NONE, 44_transform_encode.md R201. -/
  | encNone
  /-- ENC.COMP, 44_transform_encode.md R202. -/
  | encComp
  /-- ENC.HIGH, 44_transform_encode.md R203. -/
  | encHigh
  deriving DecidableEq, Repr

end Sys2Proof
end

