-- ==== Sys2Proof/Machine/Pipeline.lean ====
section
/-! DEFINITION. The permutation_table_lookup_pipeline: the per-byte datapath, stages P1 to P7, in the decode direction
(43_transform_decode.md R169) and in the encode direction (44_transform_encode.md R203, R207). Stages P0 and P8, which
touch MEM, are the byte step's (Machine/Ops.lean). -/

namespace Sys2Proof.Machine

/-- `HighByte(lower, upper, b)`: stages P1 to P7 of the decode direction (R168, R169). -/
def highByte (t : Tables) (lower upper b : Byte) : Byte :=
  let v1 := add8 b lower
  let v2 := lookup t.high1 v1
  let v3 := add8 v2 upper
  let v4 := lookup t.high2 v3
  let v5 := sub8 v4 upper
  let v6 := lookup t.comp v5
  sub8 v6 lower

/-- The `w7` of R203: the same stages with the three inverse tables in reverse order (R207). -/
def highByteEnc (t : Tables) (lower upper y : Byte) : Byte :=
  let w1 := add8 y lower
  let w2 := invLookup t.comp w1
  let w3 := add8 w2 upper
  let w4 := invLookup t.high2 w3
  let w5 := sub8 w4 upper
  let w6 := invLookup t.high1 w5
  sub8 w6 lower

/-- The output of DEC.COMP for one byte: stage P6 alone (R167, R169). -/
def compByte (t : Tables) (b : Byte) : Byte := lookup t.comp b

/-- The output of ENC.COMP for one byte: the lookup in `inv(T_COMP)` alone (R202, R207). -/
def compByteEnc (t : Tables) (b : Byte) : Byte := invLookup t.comp b

/-- What the BYTE step of a command writes, as a function of SALT and the byte read (45_host_commands.md R226). The None
commands have no BYTE step; a byte is left as it is. -/
def byteOut (t : Tables) (i : Instr) (salt : Salt) (b : Byte) : Byte :=
  match i with
  | .decNone => b
  | .decComp => compByte t b
  | .decHigh => highByte t (saltLower salt) (saltUpper salt) b
  | .encNone => b
  | .encComp => compByteEnc t b
  | .encHigh => highByteEnc t (saltLower salt) (saltUpper salt) b

/-- The commands that scan the buffer (R224: "mode Compressible or High"). -/
def scans : Instr → Bool
  | .decNone => false
  | .decComp => true
  | .decHigh => true
  | .encNone => false
  | .encComp => true
  | .encHigh => true

/-- The commands of the High mode, the only ones with a salt (42_salt_scheduler.md R154). -/
def isHigh : Instr → Bool
  | .decNone => false
  | .decComp => false
  | .decHigh => true
  | .encNone => false
  | .encComp => false
  | .encHigh => true

end Sys2Proof.Machine
end

