-- ==== Sys2Proof/WellFormed.lean ====
section
/-! DEFINITION. Which commands exist in a configuration (30_encoding.md R93, column "needs"). -/

namespace Sys2Proof

/-- The encode commands, those whose rows need ENCODE_EXT (R93). -/
def Instr.isEncode : Instr → Bool
  | .decNone => false
  | .decComp => false
  | .decHigh => false
  | .encNone => true
  | .encComp => true
  | .encHigh => true

/-- A command is well-formed for an engine when the engine has it: the decode commands always, the encode commands
with ENCODE_EXT (44_transform_encode.md R206: "the three ENC rows of the opcode map are absent"). -/
def Instr.wellFormed (ext : Bool) (i : Instr) : Bool := !i.isEncode || ext

end Sys2Proof
end

