-- ==== Sys2Proof/Decode.lean ====
section
/-! DEFINITION. The opcode map of 30_encoding.md R93 as a decoder, total on every selector and on every list of bytes,
and after it the encoder from the same table. -/

namespace Sys2Proof

/-- Why a selector or a byte string is no command. -/
inductive Reject where
  /-- The MODE field is 0x03 to 0xFF (R94). -/
  | illegalTag
  /-- DIR = 1 on an engine without ENCODE_EXT (R93: such an engine's SEL[8] is constantly 0). -/
  | encodeAbsent
  /-- Fewer than two bytes stand where the nine bits of a selector are looked for. -/
  | truncated
  deriving DecidableEq, Repr

/-- The tag of the None mode (R91). -/
def tagNone : Byte := 0x00#8

/-- The tag of the Compressible mode (R91). -/
def tagComp : Byte := 0x01#8

/-- The tag of the High mode (R91). -/
def tagHigh : Byte := 0x02#8

/-- SEL = DIR :: MODE (R90). -/
def selOf (dir : Bool) (mode : Byte) : Sel := BitVec.cons dir mode

/-- SEL[8], the field DIR (R90). -/
def selDir (sel : Sel) : Bool := sel.getLsbD 8

/-- SEL[7:0], the field MODE (R90). -/
def selMode (sel : Sel) : Byte := sel.extractLsb' 0 8

/-- The opcode map (R93), total: "every 9-bit SEL is either one of the six rows or illegal". -/
def decode (ext : Bool) (sel : Sel) : Except Reject Instr :=
  if selDir sel = false then
    if selMode sel = tagNone then .ok .decNone
    else if selMode sel = tagComp then .ok .decComp
    else if selMode sel = tagHigh then .ok .decHigh
    else .error .illegalTag
  else if ext = false then .error .encodeAbsent
  else if selMode sel = tagNone then .ok .encNone
  else if selMode sel = tagComp then .ok .encComp
  else if selMode sel = tagHigh then .ok .encHigh
  else .error .illegalTag

/-- A selector shown as bytes, the less significant byte first (log 18): SEL[7:0], then a byte whose bit 0 is SEL[8].
Its other seven bits do not exist and are ignored (R95: "the upper bits read as 0 and are ignored on write"). -/
def decodeBytes (ext : Bool) : List Byte → Except Reject (Instr × List Byte)
  | lo :: hi :: rest =>
    match decode ext (selOf (hi.getLsbD 0) lo) with
    | .ok i => .ok (i, rest)
    | .error r => .error r
  | _ => .error .truncated

/-- The direction bit a command's row has (R93). -/
def Instr.dir : Instr → Bool
  | .decNone => false
  | .decComp => false
  | .decHigh => false
  | .encNone => true
  | .encComp => true
  | .encHigh => true

/-- The mode tag a command's row has (R93). -/
def Instr.tag : Instr → Byte
  | .decNone => tagNone
  | .decComp => tagComp
  | .decHigh => tagHigh
  | .encNone => tagNone
  | .encComp => tagComp
  | .encHigh => tagHigh

/-- The selector of a command, the column "match" of R93. -/
def encode (i : Instr) : Sel := selOf i.dir i.tag

/-- The two bytes of a command's selector, as `decodeBytes` reads them. -/
def encodeBytes (i : Instr) : List Byte :=
  [selMode (encode i), BitVec.ofNat 8 ((encode i).toNat / 256)]

/-- The bytes of the word `w` of `nbits` bits, least significant first, padded with zeros to the two bytes of a
selector. -/
def tableWordBytes (nbits w : Nat) : List Byte :=
  [BitVec.ofNat 8 (w % 2 ^ nbits), BitVec.ofNat 8 (w % 2 ^ nbits / 256)]

/-- The command the decoder reads from a word numbered as spec/opcode_table.json numbers it; the full map, with the
encode rows, is asked (log 18). -/
def decodeTableWord (nbits w : Nat) : Option Instr :=
  match decodeBytes true (tableWordBytes nbits w) with
  | .ok (i, _) => some i
  | .error _ => none

end Sys2Proof
end

