-- ==== Sys2Proof/Machine/State.lean ====
section
/-! DEFINITION. The state of the machine: the engine instances of 10_state.md R20, the platform's memory (00_scope.md
R13), the parameters of R6, and the inputs still to come. Plain data throughout. -/

namespace Sys2Proof.Machine

/-- PHASE, the one field of STATUS (10_state.md R26). The values 5 to 7 "never occur" (R95) and have no constructor. -/
inductive Phase where
  | idle
  | validating
  | scanning
  | done
  | failed
  deriving DecidableEq, Repr

/-- The values of ERR (10_state.md R28, 60_exceptions.md R250). -/
inductive ErrKind where
  | noError
  | unsupportedMode
  | invalidBuffer
  | lengthOverflow
  deriving DecidableEq, Repr

/-- Which operand registers the host has written since reset: the fact on which 10_state.md R39 and
70_reset_and_hazards.md R293 make START and host reads depend. -/
structure Written where
  mode : Bool
  key : Bool
  buf : Bool
  len : Bool
  deriving DecidableEq, Repr

/-- One engine instance (10_state.md R20), with each register in one home. The AW-bit registers BUF, LEN, COUNT and IDX
are naturals that stay below 2^AW (log 7); START (CTRL bit 0) is an action and is not stored (R25). -/
structure Engine where
  /-- MODE, register 0 (R21). -/
  mode : Byte
  /-- KEY, register 1 (R22). -/
  key : Key
  /-- BUF, register 2 (R23). -/
  buf : Nat
  /-- LEN, register 3 (R24). -/
  len : Nat
  /-- DIR, bit 1 of CTRL, register 4 (R25). -/
  dir : Bool
  /-- PHASE, the field of STATUS, register 5 (R26). -/
  phase : Phase
  /-- COUNT, register 6 (R27). -/
  count : Nat
  /-- ERR, register 7 (R28). -/
  err : ErrKind
  /-- SALT, internal (R29). -/
  salt : Salt
  /-- IDX, internal (R30). -/
  idx : Nat
  /-- The operand registers written since reset (R39, R293). -/
  written : Written
  deriving DecidableEq, Repr

/-- One input, or one turn given to an engine. The list `State.schedule` of them is the interleaving of the agents
(45_host_commands.md R220, log 6). Instances are named by their number, from 0. -/
inductive Event where
  /-- The host's `RegWrite(n, v)` on instance `e` (R221, R223). -/
  | regWrite (e n v : Nat)
  /-- The host's `RegRead(n)` on instance `e` (R222). -/
  | regRead (e n : Nat)
  /-- WAIT on instance `e`: "repeat `RD STATUS` until the value is 3 or 4" (30_encoding.md R98). -/
  | wait (e : Nat)
  /-- A write of one byte of MEM by the host or another agent of the platform (R220, 20_memory.md R71). -/
  | memWrite (a : Nat) (v : Byte)
  /-- A read of one byte of MEM by the host or another agent of the platform (R220, 20_memory.md R71). -/
  | memRead (a : Nat)
  /-- The enabled step of instance `e`, if it has one (R220, R227). -/
  | engine (e : Nat)
  /-- The reset event (70_reset_and_hazards.md R290). -/
  | reset
  deriving DecidableEq, Repr

/-- MEM as address and byte pairs, in the canonical form of `Memory.wf` (Machine/Ops.lean). -/
abbrev Memory := List Host.Cell

/-- The whole machine. -/
structure State where
  /-- The parameters of R6: constants, which no step changes (log 7). -/
  params : Params
  /-- The engine instances, N_ENGINES of them (10_state.md R42). -/
  engines : List Engine
  /-- MEM (20_memory.md R60). -/
  mem : Memory
  /-- MODEL's own: the inputs and turns still to come, oldest first (log 6). -/
  schedule : List Event
  /-- MODEL's own: the instance whose engine step is being taken (log 6). -/
  turn : Nat
  /-- MODEL's own: what the last host read returned (log 14). -/
  hostData : Nat
  /-- MODEL's own: how many free values have been used (log 2). -/
  fresh : Nat
  deriving DecidableEq, Repr

/-- Why a step stops with a fault. The engine itself never raises one: its three failures are next states
(60_exceptions.md R254). -/
inductive Fault where
  /-- A host access to MEM at an address of 2^AW or above, which does not exist (20_memory.md R61, log 21). Raised by
  `Event.memRead` and `Event.memWrite`. Safe. -/
  | noSuchAddress (a : Nat)
  deriving DecidableEq, Repr

/-- Why a step has no meaning. -/
inductive Refusal where
  /-- A command with no meaning yet; raised by no arm of `exec` in this model. Safe. -/
  | notModelled (mnemonic : String)
  /-- An instance number that is not below N_ENGINES (10_state.md R42). Raised by host operations, by an engine turn
  and by `exec`. Safe. -/
  | noSuchEngine (e : Nat)
  /-- A register number above 7 (45_host_commands.md R221, R222, U13). Raised by RegWrite and RegRead. Safe. -/
  | noSuchRegister (n : Nat)
  /-- START with an operand never written since reset (10_state.md R39, 70_reset_and_hazards.md R293, U8, log 4).
  Raised by RegWrite to CTRL. Safe. -/
  | operandNeverWritten
  /-- An access by the host or another agent to the region of a running call, or a START whose region shares a byte
  with one (20_memory.md R71, 45_host_commands.md R232, U4, log 10). Raised by host MEM accesses and by RegWrite to
  CTRL. Safe. -/
  | bufferOwned
  /-- A scanning call with BUF + LEN > 2^AW (20_memory.md R79, U6, log 12). Raised by VALIDATE on entry to the scan, and
  by a BYTE step whose address does not exist. Safe. -/
  | regionWraps
  /-- A scanning call, or a host access, on memory that is not plain (20_memory.md R78, U5, log 11). Raised by VALIDATE
  on entry to the scan, by a BYTE step and by host MEM accesses. Safe. -/
  | notPlainMemory
  /-- A BYTE step of a command for which 45_host_commands.md R226 has no case (log 19): "No other (DIR, MODE) pair can
  be SCANNING", so no run reaches it. Raised by `exec` and by the step of an illegal selector. Safe. -/
  | noByteStep
  /-- An encode command on an engine without ENCODE_EXT, which has none (44_transform_encode.md R206, log 19). Raised
  by `exec` on the encode commands; no step reaches it. Safe. -/
  | encodeExtAbsent
  deriving DecidableEq, Repr

/-- One engine after reset (10_state.md R39): PHASE IDLE, COUNT 0, ERR 0, DIR 0. The six values R39 leaves unspecified are
the model's (DESIGN CHOICE, log 1 and log 3); nothing has been written. -/
def Engine.reset : Engine where
  mode := 0#8
  key := 0#32
  buf := 0
  len := 0
  dir := false
  phase := .idle
  count := 0
  err := .noError
  salt := 0#16
  idx := 0
  written := { mode := false, key := false, buf := false, len := false }

/-- The machine right after power-on reset with given parameters and number of instances: all instances leave reset
together (60_exceptions.md R265), no byte of MEM is listed, no input is pending. -/
def State.resetWith (p : Params) (n : Nat) : State where
  params := p
  engines := List.replicate n Engine.reset
  mem := []
  schedule := []
  turn := 0
  hostData := 0
  fresh := 0

/-- The machine right after reset at the default parameters (R6): one instance, AW = 32, no extension. -/
def State.reset : State := State.resetWith defaultParams 1

end Sys2Proof.Machine
end

