-- ==== Sys2Proof/Machine/Flags.lean ====
section
/-! DEFINITION. There are no flags and no condition codes (10_state.md R36): "The only status a host can read is PHASE,
COUNT and ERR." This file gives the numbers of PHASE and ERR, the value of CTRL, and the predicate busy. -/

namespace Sys2Proof.Machine

/-- The value of STATUS (10_state.md R26). -/
def Phase.code : Phase → Nat
  | .idle => 0
  | .validating => 1
  | .scanning => 2
  | .done => 3
  | .failed => 4

/-- The value of ERR (10_state.md R28, 60_exceptions.md R250). -/
def ErrKind.code : ErrKind → Nat
  | .noError => 0
  | .unsupportedMode => 1
  | .invalidBuffer => 2
  | .lengthOverflow => 3

/-- `busy`: PHASE = VALIDATING or PHASE = SCANNING (10_state.md R26). -/
def Phase.isBusy : Phase → Bool
  | .idle => false
  | .validating => true
  | .scanning => true
  | .done => false
  | .failed => false

/-- An instance is busy when its phase is. -/
def Engine.busy (g : Engine) : Bool := g.phase.isBusy

/-- DIR as the engine sees it: bit 1 of CTRL, which without ENCODE_EXT "does not exist, reads as 0" (10_state.md R25). -/
def Engine.dirBit (p : Params) (g : Engine) : Bool := p.encodeExt && g.dir

/-- The value CTRL reads as: bit 0 is 0, bit 1 is DIR (45_host_commands.md R222). -/
def Engine.ctrl (p : Params) (g : Engine) : Nat := if g.dirBit p then 2 else 0

end Sys2Proof.Machine
end

