-- ==== Sys2Proof/Machine/Operands.lean ====
section
/-! DEFINITION. The operands of a command, which are registers (30_encoding.md R90, R92): the selector, the buffer region
and its one addressing mode (20_memory.md R62), and what the platform's memory must be (R78, R79). -/

namespace Sys2Proof.Machine

/-- NULL_ADDR (00_scope.md R6). -/
def nullAddr : Nat := 0

/-- MAX_LEN = 2^(AW-1) - 1 (00_scope.md R6). -/
def maxLen (p : Params) : Nat := 2 ^ (p.aw - 1) - 1

/-- 2^AW: the number of addresses, and of values of an AW-bit register. -/
def addrSpace (p : Params) : Nat := 2 ^ p.aw

/-- SEL = DIR :: MODE of the command held in the register block, SEL[8] constantly 0 without ENCODE_EXT (R90). -/
def Engine.sel (p : Params) (g : Engine) : Sel := selOf (g.dirBit p) g.mode

/-- The one addressing mode: base BUF plus index IDX, an ordinary integer sum (20_memory.md R62). -/
def Engine.byteAddr (g : Engine) : Nat := g.buf + g.idx

/-- The buffer region of the call in the operand registers (20_memory.md R62): `BUF + i` for `i < LEN`. A null BUF presents no
buffer (10_state.md R23), so its region is empty (DEDUCED, log 10). -/
def Engine.region (g : Engine) : Region := { base := g.buf, size := if g.buf = nullAddr then 0 else g.len }

/-- Membership of an address in a run of addresses. -/
def regionHas (r : Region) (a : Nat) : Bool := decide (r.base ≤ a) && decide (a < r.base + r.size)

/-- Two runs of addresses share a byte. -/
def regionsMeet (r q : Region) : Bool :=
  decide (0 < r.size) && decide (0 < q.size) && decide (r.base < q.base + q.size) && decide (q.base < r.base + r.size)

/-- Address `a` is plain, backed, idempotent byte memory (20_memory.md R78). -/
def plainAddr (p : Params) (a : Nat) : Bool := !p.unbacked.any (fun r => regionHas r a)

/-- Every address of the region is plain memory (20_memory.md R78). -/
def plainRegion (p : Params) (r : Region) : Bool := !p.unbacked.any (fun q => regionsMeet q r)

/-- "no address of the region wraps past the top of the address space": BUF + LEN <= 2^AW (20_memory.md R79). -/
def regionFits (p : Params) (g : Engine) : Bool := decide (g.buf + g.len ≤ addrSpace p)

/-- Address `a` lies in the region of a running call (20_memory.md R71). -/
def State.owned (s : State) (a : Nat) : Bool := s.engines.any (fun g => g.busy && regionHas g.region a)

/-- The region of `g` shares a byte with the region of a running call (45_host_commands.md R232). -/
def State.overlapsRunning (s : State) (g : Engine) : Bool := s.engines.any (fun h => h.busy && regionsMeet h.region g.region)

end Sys2Proof.Machine
end

