-- ==== Sys2Proof/Machine/Ops.lean ====
section
/-! DEFINITION. The named operations over memory and registers: one byte of MEM, the engine whose turn it is, the start
of a call, taking a failure (60_exceptions.md R254) and the end of a call (45_host_commands.md R228). -/

namespace Sys2Proof.Machine

/-- What an address that no entry lists reads as: DESIGN CHOICE 0x00 (log 9). -/
def Memory.unlisted : Byte := 0x00#8

/-- `MemRead(a, 1)` (00_scope.md R9). -/
def Memory.read : Memory → Nat → Byte
  | [], _ => Memory.unlisted
  | (k, v) :: rest, a => if k = a then v else Memory.read rest a

/-- An entry put at its place among entries of rising addresses. -/
def Memory.insert : Memory → Nat → Byte → Memory
  | [], a, v => [(a, v)]
  | (k, w) :: rest, a, v => if a < k then (a, v) :: (k, w) :: rest else (k, w) :: Memory.insert rest a v

/-- `MemWrite(a, 1, v)` (00_scope.md R9); writing what an unlisted address reads as removes the entry. -/
def Memory.write (m : Memory) (a : Nat) (v : Byte) : Memory :=
  if v = Memory.unlisted then m.filter (fun c => c.1 ≠ a) else Memory.insert (m.filter (fun c => c.1 ≠ a)) a v

/-- The canonical form: addresses strictly rising, no entry that says what an unlisted address says. -/
def Memory.wf (m : Memory) : Bool :=
  decide (m.Pairwise (fun c d => c.1 < d.1)) && m.all (fun c => c.2 != Memory.unlisted)

/-- The bytes of a list at rising addresses from `a` on: the memory initialisation `MEM[a..] = [...]` of
30_encoding.md R98. -/
def Memory.writeAll : Memory → Nat → List Byte → Memory
  | m, _, [] => m
  | m, a, b :: bs => Memory.writeAll (m.write a b) (a + 1) bs

/-- The instance whose step it is. -/
def State.current (s : State) : Option Engine := s.engines[s.turn]?

/-- The state with instance `e` replaced; the other instances are untouched (10_state.md R42). -/
def State.setEngine (s : State) (e : Nat) (g : Engine) : State := { s with engines := s.engines.set e g }

/-- The state with the instance whose step it is replaced. -/
def State.setCurrent (s : State) (g : Engine) : State := s.setEngine s.turn g

/-- An accepted START (45_host_commands.md R223): COUNT and ERR cleared, PHASE VALIDATING. This is also the only return
from a failure short of reset (60_exceptions.md R255). -/
def Engine.accept (g : Engine) : Engine := { g with count := 0, err := .noError, phase := .validating }

/-- `raise K` (60_exceptions.md R254): ERR and PHASE are written, "and nothing else". -/
def Engine.raise (g : Engine) (k : ErrKind) : Engine := { g with err := k, phase := .failed }

/-- The successful end of a call: COUNT <- LEN, PHASE <- DONE (45_host_commands.md R225, R226, 43_transform_decode.md R170). -/
def Engine.finish (g : Engine) : Engine := { g with count := g.len, phase := .done }

/-- The entry to the scan (41_mode_validator.md R146): IDX <- 0, in the High mode SALT <- init(KEY), PHASE <- SCANNING. -/
def Engine.enterScan (g : Engine) (high : Bool) : Engine :=
  { g with idx := 0, salt := if high then saltInit g.key else g.salt, phase := .scanning }

/-- What the end of a BYTE step does to the registers (45_host_commands.md R226): in the High mode the salt advances, IDX
advances, and at IDX = LEN the call ends. -/
def Engine.advance (g : Engine) (high : Bool) : Engine :=
  let g' := { g with salt := if high then saltAdvance g.salt else g.salt, idx := g.idx + 1 }
  if g'.idx = g'.len then g'.finish else g'

end Sys2Proof.Machine
end

