-- ==== Sys2Proof/Machine/Validate.lean ====
section
/-! DEFINITION. The mode_validator: the VALIDATE step of every command (41_mode_validator.md R140 to R148,
45_host_commands.md R225). -/

namespace Sys2Proof.Machine

/-- What the validation phase decides (R147). -/
inductive Verdict where
  | fail (k : ErrKind)
  | finish
  | scan
  deriving DecidableEq, Repr

/-- `validate(mode)`: Ok if and only if the tag is one of the three (R140). A pure function of the tag. -/
def validateTag (tag : Byte) : Bool := decide (tag = tagNone) || decide (tag = tagComp) || decide (tag = tagHigh)

/-- The three checks in their order and the two ways out without failure (R141). -/
def validate (p : Params) (g : Engine) : Verdict :=
  if validateTag g.mode = false then .fail .unsupportedMode
  else if 0 < g.len ∧ g.buf = nullAddr then .fail .invalidBuffer
  else if maxLen p < g.len then .fail .lengthOverflow
  else if g.mode = tagNone ∨ g.len = 0 then .finish
  else .scan

/-- The VALIDATE step of the instance `g` whose turn it is, one indivisible step that never touches MEM (R225). A call that
would scan memory it may not scan is refused on entry (20_memory.md R78, R79, log 11, log 12). -/
def validateStep (s : State) (g : Engine) : Host.Outcome State Fault Refusal :=
  match validate s.params g with
  | .fail k => .next (s.setCurrent (g.raise k))
  | .finish => .next (s.setCurrent g.finish)
  | .scan =>
    if regionFits s.params g = false then .refused .regionWraps
    else if plainRegion s.params g.region = false then .refused .notPlainMemory
    else .next (s.setCurrent (g.enterScan (decide (g.mode = tagHigh))))

end Sys2Proof.Machine
end

