-- ==== Sys2Proof/Machine/Scan.lean ====
section
/-! DEFINITION. The transform engine's byte step (45_host_commands.md R226, stages P0 and P8 of 43_transform_decode.md
R169) and the phase machine of one command (R224): what the six commands share. -/

namespace Sys2Proof.Machine

/-- Why the engine's port cannot make an access at `a`: the address does not exist, or is not plain memory
(20_memory.md R78, R79). -/
def portRefusal (p : Params) (a : Nat) : Option Refusal :=
  if addrSpace p ≤ a then some .regionWraps
  else if plainAddr p a = false then some .notPlainMemory
  else none

/-- The BYTE step of the instance `g` whose turn it is (R226): read the byte at BUF + IDX, write `out` of it back to the same
address, advance the salt in the High mode, advance IDX, and end the call at IDX = LEN. -/
def byteStep (s : State) (g : Engine) (high : Bool) (out : Byte → Byte) : Host.Outcome State Fault Refusal :=
  match portRefusal s.params g.byteAddr with
  | some r => .refused r
  | none => .next { s.setCurrent (g.advance high) with mem := s.mem.write g.byteAddr (out (s.mem.read g.byteAddr)) }

/-- The enabled step of the instance whose turn it is (R224): VALIDATE when VALIDATING, the command's own BYTE step when
SCANNING; an instance that is not busy "takes no step, makes no access to MEM, and changes no register" (R228). -/
def commandStep (s : State) (byte : Engine → Host.Outcome State Fault Refusal) : Host.Outcome State Fault Refusal :=
  match s.current with
  | none => .refused (.noSuchEngine s.turn)
  | some g =>
    match g.phase with
    | .validating => validateStep s g
    | .scanning => byte g
    | .idle => .next s
    | .done => .next s
    | .failed => .next s

/-- The enabled step of an instance whose selector is illegal (30_encoding.md R94): VALIDATE fails with UnsupportedMode
(41_mode_validator.md R142). R226 has no byte step for it (log 19). -/
def execIllegal (s : State) : Host.Outcome State Fault Refusal :=
  commandStep s (fun _ => .refused .noByteStep)

end Sys2Proof.Machine
end

