-- ==== Sys2Proof/Machine/DecCommands.lean ====
section
/-! DEFINITION. The meanings of the three decode commands (43_transform_decode.md R166 to R168). A meaning is the command's
enabled engine step (45_host_commands.md R224): VALIDATE when VALIDATING, BYTE when SCANNING, none when not busy; the whole
call is the sequence of them (R171, R227). -/

namespace Sys2Proof.Machine

/-- DEC.NONE (R166): it ends in its VALIDATE step, "no MemRead, no MemWrite, SALT and IDX untouched". -/
def execDecNone (s : State) : Host.Outcome State Fault Refusal :=
  commandStep s (fun _ => .refused .noByteStep)

/-- DEC.COMP (R167): each byte becomes `T_COMP[b]`; SALT is neither read nor written. -/
def execDecComp (s : State) : Host.Outcome State Fault Refusal :=
  commandStep s (fun g => byteStep s g false (compByte s.params.tables))

/-- DEC.HIGH (R168): each byte becomes `HighByte(lower, upper, b)` with the two bytes of SALT, and SALT advances. -/
def execDecHigh (s : State) : Host.Outcome State Fault Refusal :=
  commandStep s (fun g => byteStep s g true (highByte s.params.tables (saltLower g.salt) (saltUpper g.salt)))

end Sys2Proof.Machine
end

