-- ==== Sys2Proof/Machine/EncCommands.lean ====
section
/-! DEFINITION. The meanings of the three encode commands (44_transform_encode.md R201 to R203), which only an engine with
ENCODE_EXT has (R206). Validation does not look at DIR (41_mode_validator.md R140), so it is the decode commands'. -/

namespace Sys2Proof.Machine

/-- A command that exists only with ENCODE_EXT (R206, log 19). -/
def needsEncodeExt (s : State) (o : Host.Outcome State Fault Refusal) : Host.Outcome State Fault Refusal :=
  if s.params.encodeExt then o else .refused .encodeExtAbsent

/-- ENC.NONE (R201): "identical to `DEC.NONE`". -/
def execEncNone (s : State) : Host.Outcome State Fault Refusal :=
  needsEncodeExt s (commandStep s (fun _ => .refused .noByteStep))

/-- ENC.COMP (R202): each byte becomes `inv(T_COMP)[b]`. -/
def execEncComp (s : State) : Host.Outcome State Fault Refusal :=
  needsEncodeExt s (commandStep s (fun g => byteStep s g false (compByteEnc s.params.tables)))

/-- ENC.HIGH (R203): each byte becomes `w7`, and SALT advances, "exactly as in decoding". -/
def execEncHigh (s : State) : Host.Outcome State Fault Refusal :=
  needsEncodeExt s
    (commandStep s (fun g => byteStep s g true (highByteEnc s.params.tables (saltLower g.salt) (saltUpper g.salt))))

end Sys2Proof.Machine
end

