-- ==== Sys2Proof/Machine/Dispatch.lean ====
section
/-! DEFINITION. One arm per command of spec/opcode_table.json. -/

namespace Sys2Proof.Machine

def exec (i : Instr) (s : State) : Host.Outcome State Fault Refusal :=
  match i with
  | .decNone => Sys2Proof.Machine.execDecNone s
  | .decComp => Sys2Proof.Machine.execDecComp s
  | .decHigh => Sys2Proof.Machine.execDecHigh s
  | .encNone => Sys2Proof.Machine.execEncNone s
  | .encComp => Sys2Proof.Machine.execEncComp s
  | .encHigh => Sys2Proof.Machine.execEncHigh s

end Sys2Proof.Machine
end

