-- ==== Sys2Proof/Machine/HostOps.lean ====
section
/-! DEFINITION. What the host can do: RegWrite, START, RegRead (45_host_commands.md R221 to R223), its accesses to MEM
(R220, 20_memory.md R71), the reset event (70_reset_and_hazards.md R290), and the pseudo-instructions START, START.ENC and
CALL (30_encoding.md R98, R100). -/

namespace Sys2Proof.Machine

/-- The width in bits of register `n` (10_state.md R20). -/
def regWidth (p : Params) : Nat → Nat
  | 0 => 8
  | 1 => 32
  | 2 => p.aw
  | 3 => p.aw
  | 4 => 2
  | 5 => 3
  | 6 => p.aw
  | 7 => 2
  | _ => 0

/-- `v` cut to the width of register `n`: "the register takes v truncated to its width" (R221). -/
def regTruncate (p : Params) (n v : Nat) : Nat := v % 2 ^ regWidth p n

/-- An accepted write to an operand register 0 to 3 (R221). -/
def Engine.writeOperand (p : Params) (g : Engine) (n v : Nat) : Engine :=
  match n with
  | 0 => { g with mode := BitVec.ofNat 8 v, written := { g.written with mode := true } }
  | 1 => { g with key := BitVec.ofNat 32 v, written := { g.written with key := true } }
  | 2 => { g with buf := regTruncate p 2 v, written := { g.written with buf := true } }
  | 3 => { g with len := regTruncate p 3 v, written := { g.written with len := true } }
  | _ => g

/-- The operands a START needs have been written since reset (10_state.md R39, 70_reset_and_hazards.md R293): MODE, BUF and
LEN always, KEY but for the None and Compressible modes, which never read it (U8, log 4). -/
def Engine.operandsWritten (g : Engine) : Bool :=
  g.written.mode && g.written.buf && g.written.len &&
    (g.written.key || decide (g.mode = tagNone) || decide (g.mode = tagComp))

/-- DIR <- v[1] when ENCODE_EXT is true; otherwise "the bit does not exist ... and ignores writes" (R223, 10_state.md R25). -/
def Engine.setDir (p : Params) (g : Engine) (v : Nat) : Engine :=
  if p.encodeExt then { g with dir := v.testBit 1 } else g

/-- `RegWrite(4, v)` on instance `e`, which is `g` and is not busy (R223): DIR, and with v[0] = 1 the start of a call. -/
def ctrlWrite (s : State) (e : Nat) (g : Engine) (v : Nat) : Host.Outcome State Fault Refusal :=
  let g' := g.setDir s.params v
  if v.testBit 0 = false then .next (s.setEngine e g')
  else if g.operandsWritten = false then .refused .operandNeverWritten
  else if s.overlapsRunning g then .refused .bufferOwned
  else .next (s.setEngine e g'.accept)

/-- `RegWrite(n, v)` on instance `e` (R221): while busy, registers 0 to 4 ignore it (10_state.md R38); 5, 6 and 7 are
read-only; above 7 there is no register. -/
def regWrite (s : State) (e n v : Nat) : Host.Outcome State Fault Refusal :=
  match s.engines[e]? with
  | none => .refused (.noSuchEngine e)
  | some g =>
    if 7 < n then .refused (.noSuchRegister n)
    else if 4 < n then .next s
    else if g.busy then .next s
    else if n = 4 then ctrlWrite s e g v
    else .next (s.setEngine e (g.writeOperand s.params n v))

/-- The host latches what a read returned (log 14). -/
def State.answer (s : State) (v : Nat) : State := { s with hostData := v }

/-- A host read of a `w`-bit operand register: its value, or, when it has not been written since reset, a free value of that
width (10_state.md R39, R222, log 2). -/
def State.answerOperand (s : State) (written : Bool) (w v : Nat) : State :=
  if written then s.answer v
  else { s.answer (Config.unspecified s.fresh % 2 ^ w) with fresh := s.fresh + 1 }

/-- `RegRead(n)` on instance `e` (R222): the current value, zero-extended, with no side effect on the machine. -/
def regRead (s : State) (e n : Nat) : Host.Outcome State Fault Refusal :=
  match s.engines[e]? with
  | none => .refused (.noSuchEngine e)
  | some g =>
    match n with
    | 0 => .next (s.answerOperand g.written.mode 8 g.mode.toNat)
    | 1 => .next (s.answerOperand g.written.key 32 g.key.toNat)
    | 2 => .next (s.answerOperand g.written.buf s.params.aw g.buf)
    | 3 => .next (s.answerOperand g.written.len s.params.aw g.len)
    | 4 => .next (s.answer (g.ctrl s.params))
    | 5 => .next (s.answer g.phase.code)
    | 6 => .next (s.answer g.count)
    | 7 => .next (s.answer g.err.code)
    | _ => .refused (.noSuchRegister n)

/-- May the host, or another agent, access address `a`? Not where there is no such address (log 21), not the region of a
running call (20_memory.md R71), and what memory that is not plain would do is not said (log 11). -/
def hostAccess (s : State) (a : Nat) (t : State) : Host.Outcome State Fault Refusal :=
  if addrSpace s.params ≤ a then .fault (.noSuchAddress a)
  else if s.owned a then .refused .bufferOwned
  else if plainAddr s.params a = false then .refused .notPlainMemory
  else .next t

/-- A write of one byte of MEM by the host or another agent. -/
def hostMemWrite (s : State) (a : Nat) (v : Byte) : Host.Outcome State Fault Refusal :=
  hostAccess s a { s with mem := s.mem.write a v }

/-- A read of one byte of MEM by the host or another agent. -/
def hostMemRead (s : State) (a : Nat) : Host.Outcome State Fault Refusal :=
  hostAccess s a (s.answer (s.mem.read a).toNat)

/-- The reset event (70_reset_and_hazards.md R290): every instance to the state of 10_state.md R39; MEM and the tables
untouched, so that a scan it strikes leaves a transformed prefix (R292, log 16). -/
def resetEvent (s : State) : State := { s with engines := s.engines.map (fun _ => Engine.reset) }

/-- START: `WR CTRL, 1` (30_encoding.md R100). -/
def hostStart (e : Nat) : Event := .regWrite e 4 1

/-- START.ENC: `WR CTRL, 3` (30_encoding.md R100). -/
def hostStartEnc (e : Nat) : Event := .regWrite e 4 3

/-- CALL: the four operand writes, the start, and WAIT (30_encoding.md R100). -/
def hostCall (e : Nat) (i : Instr) (key : Key) (buf len : Nat) : List Event :=
  [.regWrite e 0 i.tag.toNat, .regWrite e 1 key.toNat, .regWrite e 2 buf, .regWrite e 3 len,
    if i.dir then hostStartEnc e else hostStart e, .wait e]

/-- Memory initialisation `MEM[a..] = [...]` as host writes (30_encoding.md R98). -/
def hostMemInit : Nat → List Byte → List Event
  | _, [] => []
  | a, b :: bs => .memWrite a b :: hostMemInit (a + 1) bs

end Sys2Proof.Machine
end

