-- ==== Sys2Proof/Machine/Agents.lean ====
section
/-! DEFINITION. Who takes the next step (45_host_commands.md R220, R227): the head of the schedule says; with nothing
scheduled, a busy instance. -/

namespace Sys2Proof.Machine

/-- The state with the turn given to instance `e`. -/
def State.giveTurn (s : State) (e : Nat) : State := { s with turn := e }

/-- The step of a busy instance `g`, number `e`: the command its selector decodes to, or an illegal one's (30_encoding.md
R93, R94). -/
def busyStep (s : State) (e : Nat) (g : Engine) : Host.Outcome State Fault Refusal :=
  match decode s.params.encodeExt (g.sel s.params) with
  | .ok i => exec i (s.giveTurn e)
  | .error _ => execIllegal (s.giveTurn e)

/-- A turn given to instance `e`: its enabled step if it is busy, otherwise nothing (R228). -/
def engineTurn (s : State) (e : Nat) : Host.Outcome State Fault Refusal :=
  match s.engines[e]? with
  | none => .refused (.noSuchEngine e)
  | some g => if g.busy then busyStep s e g else .next s

/-- WAIT on instance `e` (30_encoding.md R98), standing at the head of the schedule, whose rest is `rest`: while the instance is
busy it takes its step and the host goes on waiting; then `RD STATUS` answers, and WAIT ends at 3 or 4. -/
def waitStep (s : State) (e : Nat) (rest : List Event) : Host.Outcome State Fault Refusal :=
  match s.engines[e]? with
  | none => .refused (.noSuchEngine e)
  | some g =>
    if g.busy then busyStep s e g
    else if g.phase = .idle then .next (s.answer g.phase.code)
    else .next { s.answer g.phase.code with schedule := rest }

/-- One scheduled event, taken off the schedule (WAIT stays until it ends). -/
def runEvent (s : State) (ev : Event) (rest : List Event) : Host.Outcome State Fault Refusal :=
  match ev with
  | .regWrite e n v => regWrite { s with schedule := rest } e n v
  | .regRead e n => regRead { s with schedule := rest } e n
  | .wait e => waitStep s e rest
  | .memWrite a v => hostMemWrite { s with schedule := rest } a v
  | .memRead a => hostMemRead { s with schedule := rest } a
  | .engine e => engineTurn { s with schedule := rest } e
  | .reset => .next (resetEvent { s with schedule := rest })

/-- The number of the first busy instance, if one is busy. -/
def State.firstBusy (s : State) : Option Nat := s.engines.findIdx? (fun g => g.busy)

/-- One step of the machine. With nothing scheduled the first busy instance steps, which keeps the fairness of R227; with none
busy nothing can happen, and the machine waits (60_exceptions.md R267). -/
def agentsStep (s : State) : Host.Outcome State Fault Refusal :=
  match s.schedule with
  | ev :: rest => runEvent s ev rest
  | [] =>
    match s.firstBusy with
    | some e => engineTurn s e
    | none => .next s

/-- An instance on which the host has programmed the command of selector `sel` with the operands KEY, BUF and LEN zero and
whose START has been accepted (30_encoding.md R90, 45_host_commands.md R223). -/
def Engine.programmed (g : Engine) (sel : Sel) : Engine :=
  { g with
    mode := selMode sel, dir := selDir sel, key := 0#32, buf := 0, len := 0,
    written := { mode := true, key := true, buf := true, len := true },
    count := 0, err := .noError, phase := .validating }

/-- The state in which the command of selector `sel` has been started on instance 0 and whose next event is that instance's
turn; ENCODE_EXT is there when DIR = 1 needs it (log 13). -/
def State.withStarted (s : State) (sel : Sel) : State :=
  { s with
    params := { s.params with encodeExt := s.params.encodeExt || selDir sel },
    engines := match s.engines with
      | [] => [Engine.reset.programmed sel]
      | g :: rest => g.programmed sel :: rest,
    schedule := .engine 0 :: s.schedule }

end Sys2Proof.Machine
end

