-- ==== Sys2Proof/Machine/Step.lean ====
section
/-! DEFINITION. One step of the machine, and the state in which a given command is the next to run. -/

namespace Sys2Proof.Machine

/-- One step of one agent (45_host_commands.md R220). -/
def step (s : State) : Host.Outcome State Fault Refusal := Sys2Proof.Machine.agentsStep s

/-- `s` with the command of the word `w` of `nbits` bits, numbered as spec/opcode_table.json numbers it, started on instance 0 so
that the next step is its first (log 13, log 18). -/
def State.withFetchWord (s : State) (nbits w : Nat) : State := s.withStarted (BitVec.ofNat 9 (w % 2 ^ nbits))

end Sys2Proof.Machine
end

