-- ==== Sys2Proof/Machine/Call.lean ====
section
/-! DEFINITION. The meaning of a whole call as a function of the buffer (43_transform_decode.md R171), of which the step
machine is the refinement: what each byte becomes under each command. -/

namespace Sys2Proof.Machine

/-- `B'[k]` as a function of `B[k]`, KEY and k (R171; for the encode commands 44_transform_encode.md R201 to R203): the byte
step's output under the salt of byte `k` (42_salt_scheduler.md R155). -/
def byteMap (t : Tables) (i : Instr) (key : Key) (k : Nat) (b : Byte) : Byte := byteOut t i (saltAt key k) b

/-- The number of engine steps of a call that succeeds (45_host_commands.md R227): one for validation, and one for each byte
of a scanning command. -/
def callSteps (i : Instr) (len : Nat) : Nat := if scans i then 1 + len else 1

/-- Turns for instance `e`, `n` of them: the part of a schedule that runs its call without interleaving. -/
def turns (e n : Nat) : List Event := List.replicate n (.engine e)

end Sys2Proof.Machine
end

