-- ==== Sys2Proof/Safety.lean ====
section
/-! DEFINITION. What counts as a sound machine: the invariant of one instance and of the whole state, gathered from the
spec's own statements about the machine. No definition of the machine uses it. -/

namespace Sys2Proof

open Machine

/-- What the rules say holds of one instance at every moment. -/
structure EngineInv (p : Params) (g : Engine) : Prop where
  /-- BUF is an AW-bit register (10_state.md R23). -/
  buf_lt : g.buf < addrSpace p
  /-- LEN is an AW-bit register (10_state.md R24). -/
  len_lt : g.len < addrSpace p
  /-- COUNT is the LEN of a successful call, so at most MAX_LEN (10_state.md R27, 41_mode_validator.md R144). -/
  count_le : g.count ≤ maxLen p
  /-- IDX "never exceeds MAX_LEN, so it never wraps" (10_state.md R30). -/
  idx_le : g.idx ≤ maxLen p
  /-- "`ERR != 0` if and only if `PHASE = FAILED`" (10_state.md R28). -/
  err_iff : g.err ≠ .noError ↔ g.phase = .failed
  /-- COUNT is 0 but in DONE: "COUNT never holds a partial count" (10_state.md R27). -/
  count_zero : g.phase ≠ .done → g.count = 0
  /-- Without ENCODE_EXT the bit DIR does not exist (10_state.md R25). -/
  dir_absent : p.encodeExt = false → g.dir = false
  /-- A running call was started after its operands were written (70_reset_and_hazards.md R293). -/
  busy_written : g.busy = true → g.operandsWritten = true
  /-- "No other (DIR, MODE) pair can be SCANNING" (45_host_commands.md R226). -/
  scan_mode : g.phase = .scanning → g.mode = tagComp ∨ g.mode = tagHigh
  /-- `PHASE = SCANNING` "implies `IDX < LEN`" (45_host_commands.md R226). -/
  scan_idx : g.phase = .scanning → g.idx < g.len
  /-- A scanning call passed check 3 (41_mode_validator.md R144). -/
  scan_len : g.phase = .scanning → g.len ≤ maxLen p
  /-- A scanning call passed check 2 (41_mode_validator.md R143). -/
  scan_buf : g.phase = .scanning → g.buf ≠ nullAddr
  /-- A scanning call does not wrap (20_memory.md R79). -/
  scan_fits : g.phase = .scanning → regionFits p g = true
  /-- A scanning call is on plain memory (20_memory.md R78). -/
  scan_plain : g.phase = .scanning → plainRegion p g.region = true
  /-- In a High call the salt of byte IDX is `(init(KEY) + IDX) mod 65536` (42_salt_scheduler.md R155). -/
  scan_salt : g.phase = .scanning → g.mode = tagHigh → g.salt = saltAt g.key g.idx

/-- What the rules say holds of the whole machine at every moment. -/
structure StateInv (s : State) : Prop where
  /-- The parameters are legal (00_scope.md R6). -/
  params : ParamsLegal s.params
  /-- There is at least one instance (00_scope.md R6, N_ENGINES). -/
  some_engine : s.engines ≠ []
  /-- Each instance is sound. -/
  engines : ∀ g ∈ s.engines, EngineInv s.params g
  /-- "no two concurrent calls may target the same buffer region" (20_memory.md R71, 45_host_commands.md R232). -/
  disjoint : ∀ (e f : Nat) (g h : Engine), s.engines[e]? = some g → s.engines[f]? = some h → e ≠ f →
    g.busy = true → h.busy = true → regionsMeet g.region h.region = false
  /-- The memory is in its canonical form. -/
  mem_wf : s.mem.wf = true
  /-- Only addresses that exist are listed (20_memory.md R60). -/
  mem_space : ∀ c ∈ s.mem, c.1 < addrSpace s.params

/-- The instance of the current turn is `g` and the command its registers select is `i` (30_encoding.md R90, R93): what the
machine knows when it runs `exec i`. -/
def Selected (s : State) (i : Instr) (g : Engine) : Prop :=
  s.engines[s.turn]? = some g ∧ decode s.params.encodeExt (g.sel s.params) = .ok i

end Sys2Proof
end

