-- ==== Sys2Proof/Certificates/Slice0/Obligations.lean ====
section
/-! DEFINITION. The statements for the provers, taken from the numbered rules of spec/. -/

open Sys2Proof Sys2Proof.Machine

section Encoding

/-- R93: the six rows of the opcode map and no others; SEL[8] is constantly 0 without ENCODE_EXT; every other selector is
illegal. -/
def Obligations.OpcodeMap : Prop :=
  (∀ (ext : Bool) (sel : Sel),
    (decode ext sel = .ok .decNone ↔ sel = 0x000#9) ∧
    (decode ext sel = .ok .decComp ↔ sel = 0x001#9) ∧
    (decode ext sel = .ok .decHigh ↔ sel = 0x002#9) ∧
    (decode ext sel = .ok .encNone ↔ ext = true ∧ sel = 0x100#9) ∧
    (decode ext sel = .ok .encComp ↔ ext = true ∧ sel = 0x101#9) ∧
    (decode ext sel = .ok .encHigh ↔ ext = true ∧ sel = 0x102#9) ∧
    (2 < (selMode sel).toNat → (sel.getLsbD 8 = false ∨ ext = true) → decode ext sel = .error .illegalTag)) ∧
  ∀ (p : Params) (g : Engine), p.encodeExt = false → (g.sel p).getLsbD 8 = false

/-- The words of spec/opcode_table.json (R93), and a few illegal ones (R94), as the decoder reads them. -/
def Obligations.TableWordsDecode : Prop :=
  decodeTableWord 16 0x000 = some .decNone ∧ decodeTableWord 16 0x001 = some .decComp ∧
  decodeTableWord 16 0x002 = some .decHigh ∧ decodeTableWord 16 0x100 = some .encNone ∧
  decodeTableWord 16 0x101 = some .encComp ∧ decodeTableWord 16 0x102 = some .encHigh ∧
  decodeTableWord 16 0x003 = none ∧ decodeTableWord 16 0x0FF = none ∧ decodeTableWord 16 0x103 = none ∧
  decodeTableWord 16 0x1FF = none

/-- Decoding the encoding of a command the engine has gives the command back, and the bytes after it (R90, R93; that a selector
is shown as two bytes, the less significant first, is the model's choice, log 18). -/
def Obligations.SelectorBytesRoundTrip : Prop :=
  ∀ (ext : Bool) (i : Instr) (rest : List Byte), i.wellFormed ext = true →
    decodeBytes ext (encodeBytes i ++ rest) = .ok (i, rest)

/-- Decode and encode agree over the register block (R90, R100). What CALL writes, the machine decodes: for every command and every
value of its operands, the five register writes of CALL on an instance that is not busy leave an accepted call whose selector decodes
to that command and whose operand registers hold exactly those values; nothing else changes. Two things are the model's choice: that
CALL is five events and a WAIT of the schedule, in the order in which R100 lists them (log 17), and that START leaves SALT and IDX,
whose values R29, R30 and R39 leave unspecified, alone (log 3). -/
def Obligations.CallProgramsItsCommand : Prop :=
  ∀ (s : State) (e : Nat) (g : Engine) (i : Instr) (key : Key) (buf len : Nat) (rest : List Event),
    s.engines[e]? = some g → g.busy = false → i.wellFormed s.params.encodeExt = true →
    buf < 2 ^ s.params.aw → len < 2 ^ s.params.aw →
    s.overlapsRunning { g with buf := buf, len := len } = false →
    s.schedule = hostCall e i key buf len ++ rest →
    ∃ t h, core.run 5 s = .next t ∧ t.engines = s.engines.set e h ∧
      decode s.params.encodeExt (h.sel s.params) = .ok i ∧
      h.mode = i.tag ∧ h.key = key ∧ h.buf = buf ∧ h.len = len ∧ (s.params.encodeExt = true → h.dir = i.dir) ∧
      h.phase = .validating ∧ h.count = 0 ∧ h.err = .noError ∧ h.salt = g.salt ∧ h.idx = g.idx ∧
      t.mem = s.mem ∧ t.params = s.params ∧ t.schedule = .wait e :: rest

end Encoding

section Stepping

/-- A busy instance whose selector decodes to the command `i` and that is given the turn runs `exec i`: by a scheduled turn
(the schedule moves on), under WAIT (the schedule stays), or with nothing scheduled as the first busy instance. Who steps when is
the model's choice (log 6, log 17). -/
def Obligations.StepRunsDecoded : Prop :=
  ∀ (s : State) (e : Nat) (g : Engine) (i : Instr),
    s.engines[e]? = some g → g.busy = true → decode s.params.encodeExt (g.sel s.params) = .ok i →
    (∀ rest, s.schedule = .engine e :: rest → step s = exec i { s with schedule := rest, turn := e }) ∧
    (∀ rest, s.schedule = .wait e :: rest → step s = exec i { s with turn := e }) ∧
    (s.schedule = [] → s.engines.findIdx? (fun h => h.busy) = some e → step s = exec i { s with turn := e })

/-- R142: a call whose tag is 0x03 to 0xFF, in either direction and whatever BUF and LEN hold, fails with UnsupportedMode when its
instance is given the turn, and only ERR and PHASE change. The three ways to be given the turn are those of `StepRunsDecoded`; who
steps when is the model's choice (log 6, log 17). -/
def Obligations.IllegalTagFails : Prop :=
  ∀ (s : State) (e : Nat) (g : Engine),
    s.engines[e]? = some g → g.phase = .validating → 2 < g.mode.toNat →
    (∀ rest, s.schedule = .engine e :: rest → step s = .next { s with
      engines := s.engines.set e { g with err := .unsupportedMode, phase := .failed }, schedule := rest, turn := e }) ∧
    (∀ rest, s.schedule = .wait e :: rest → step s = .next { s with
      engines := s.engines.set e { g with err := .unsupportedMode, phase := .failed }, turn := e }) ∧
    (s.schedule = [] → s.engines.findIdx? (fun h => h.busy) = some e → step s = .next { s with
      engines := s.engines.set e { g with err := .unsupportedMode, phase := .failed }, turn := e })

/-- R228: an instance that is not busy takes no step; and a machine with nothing scheduled and no busy instance waits, which is
the model's choice (log 6). -/
def Obligations.NoStepWhenNotBusy : Prop :=
  (∀ (s : State) (e : Nat) (g : Engine) (rest : List Event),
    s.engines[e]? = some g → g.busy = false → s.schedule = .engine e :: rest →
    step s = .next { s with schedule := rest }) ∧
  ∀ s : State, s.schedule = [] → (∀ g ∈ s.engines, g.busy = false) → step s = .next s

end Stepping

section Validation

/-- R145: with the checks passed, a None call or a call with LEN = 0 completes in its VALIDATE step: COUNT is LEN, PHASE is DONE,
and nothing else changes. Every command completes here. -/
def Obligations.ImmediateCompletion : Prop :=
  ∀ (s : State) (i : Instr) (g : Engine), Selected s i g → g.phase = .validating →
    (g.len = 0 ∨ g.buf ≠ 0) → g.len ≤ 2 ^ (s.params.aw - 1) - 1 → (g.mode = 0x00#8 ∨ g.len = 0) →
    exec i s = .next { s with engines := s.engines.set s.turn { g with count := g.len, phase := .done } }

/-- R143: with LEN > 0 and a null BUF every command fails with InvalidBuffer, also when LEN is too long and for the None mode;
with LEN = 0 a null BUF passes. -/
def Obligations.NullBufferFails : Prop :=
  (∀ (s : State) (i : Instr) (g : Engine), Selected s i g → g.phase = .validating → 0 < g.len → g.buf = 0 →
    exec i s = .next { s with engines := s.engines.set s.turn { g with err := .invalidBuffer, phase := .failed } }) ∧
  ∀ (s : State) (i : Instr) (g : Engine), Selected s i g → g.phase = .validating → g.len = 0 →
    exec i s = .next { s with engines := s.engines.set s.turn { g with count := 0, phase := .done } }

/-- R144: with the first two checks passed, a LEN above MAX_LEN = 2^(AW-1) - 1, which is a LEN with LEN[AW-1] = 1, fails with
LengthOverflow; LEN = MAX_LEN passes. -/
def Obligations.LengthOverflowFails : Prop :=
  (∀ (s : State) (i : Instr) (g : Engine), Selected s i g → g.phase = .validating → g.buf ≠ 0 →
    2 ^ (s.params.aw - 1) - 1 < g.len →
    exec i s = .next { s with engines := s.engines.set s.turn { g with err := .lengthOverflow, phase := .failed } }) ∧
  (∀ (p : Params) (n : Nat), 17 ≤ p.aw → n < 2 ^ p.aw → (maxLen p < n ↔ n.testBit (p.aw - 1) = true)) ∧
  ∀ (p : Params) (g : Engine), g.len = maxLen p → validate p g ≠ .fail .lengthOverflow

/-- R146: with the checks passed, a Compressible or High call with LEN > 0 enters the scan: IDX is 0, in the High mode SALT is
init(KEY), PHASE is SCANNING, and nothing else changes. The region must be plain memory that does not wrap. -/
def Obligations.ScanEntry : Prop :=
  ∀ (s : State) (i : Instr) (g : Engine), Selected s i g → g.phase = .validating → scans i = true →
    0 < g.len → g.buf ≠ 0 → g.len ≤ 2 ^ (s.params.aw - 1) - 1 →
    g.buf + g.len ≤ 2 ^ s.params.aw → plainRegion s.params g.region = true →
    exec i s = .next { s with engines := s.engines.set s.turn { g with
      idx := 0, salt := if g.mode = 0x02#8 then saltInit g.key else g.salt, phase := .scanning } }

/-- The truth table of the validation step, the first failing check deciding (R141, R252; the table is R148, which the spec marks
as derived from R141). -/
def Obligations.ValidationTruthTable : Prop :=
  ∀ (p : Params) (g : Engine),
    (2 < g.mode.toNat → validate p g = .fail .unsupportedMode) ∧
    (g.mode.toNat ≤ 2 → g.len = 0 → validate p g = .finish) ∧
    (g.mode.toNat ≤ 2 → 0 < g.len → g.buf = 0 → validate p g = .fail .invalidBuffer) ∧
    (g.mode.toNat ≤ 2 → 0 < g.len → g.buf ≠ 0 → maxLen p < g.len → validate p g = .fail .lengthOverflow) ∧
    (g.mode.toNat ≤ 2 → 0 < g.len → g.buf ≠ 0 → g.len ≤ maxLen p →
      validate p g = if g.mode = 0x00#8 then .finish else .scan)

/-- R147, which the spec marks as derived from R141 to R146: after the validation step exactly one of three things is true, MEM is unchanged, and MEM has not been read: with any
other memory the registers would be the same. -/
def Obligations.ValidationAllOrNothing : Prop :=
  ∀ (s t : State) (i : Instr) (g : Engine), s.engines[s.turn]? = some g → g.phase = .validating →
    exec i s = .next t →
    (∃ h : Engine, t = { s with engines := s.engines.set s.turn h } ∧
      ((∃ k : ErrKind, k ≠ .noError ∧ h = { g with err := k, phase := .failed }) ∨
        h = { g with count := g.len, phase := .done } ∨
        h = { g with idx := 0, salt := h.salt, phase := .scanning })) ∧
    ∀ m : Memory, exec i { s with mem := m } = .next { t with mem := m }

/-- A call that would scan a region with BUF + LEN > 2^AW is refused, as R79 tells a model to; that the refusal comes in the
VALIDATE step is the model's choice, deduced from R79 (log 12). This binds no other call (R66, R79). -/
def Obligations.WrappingRegionRefused : Prop :=
  (∀ (s : State) (i : Instr) (g : Engine), Selected s i g → g.phase = .validating → scans i = true →
    0 < g.len → g.buf ≠ 0 → g.len ≤ maxLen s.params → 2 ^ s.params.aw < g.buf + g.len →
    exec i s = .refused .regionWraps) ∧
  ∀ (s : State) (i : Instr) (g : Engine), Selected s i g → g.phase = .validating →
    (scans i = false ∨ g.len = 0 ∨ g.buf = 0 ∨ maxLen s.params < g.len) → ∃ t, exec i s = .next t

/-- A call that would scan memory that is not plain is refused, as R78 tells a model to; the list of ranges that are not plain and
that the refusal comes in the VALIDATE step are the model's choice (log 11). -/
def Obligations.UnbackedRegionRefused : Prop :=
  ∀ (s : State) (i : Instr) (g : Engine) (r : Region) (a : Nat), Selected s i g → g.phase = .validating →
    scans i = true → g.buf ≠ 0 → g.len ≤ maxLen s.params → g.buf + g.len ≤ 2 ^ s.params.aw →
    r ∈ s.params.unbacked → r.base ≤ a → a < r.base + r.size → g.buf ≤ a → a < g.buf + g.len →
    exec i s = .refused .notPlainMemory

end Validation

section ByteStep

/-- DEC.COMP, one BYTE step (R226, R167): the byte at BUF + IDX becomes T_COMP of it, every other byte stays, IDX advances, at
IDX = LEN the call ends with COUNT = LEN, and no other register (SALT among them) and nothing else changes. -/
def Obligations.DecCompByte : Prop :=
  ∀ (s : State) (g : Engine), s.engines[s.turn]? = some g → g.phase = .scanning →
    g.buf + g.idx < 2 ^ s.params.aw → plainAddr s.params (g.buf + g.idx) = true →
    ∃ t, exec .decComp s = .next t ∧
      t.mem.read (g.buf + g.idx) = lookup s.params.tables.comp (s.mem.read (g.buf + g.idx)) ∧
      (∀ a, a ≠ g.buf + g.idx → t.mem.read a = s.mem.read a) ∧
      t = { s with mem := t.mem, engines := s.engines.set s.turn { g with
        idx := g.idx + 1, count := if g.idx + 1 = g.len then g.len else g.count,
        phase := if g.idx + 1 = g.len then .done else .scanning } }

/-- DEC.HIGH, one BYTE step (R226, R168): with `lower` and `upper` the two bytes of SALT, the byte at BUF + IDX goes through the
seven stages of the listing; SALT advances modulo 65536; the rest as for DEC.COMP. -/
def Obligations.DecHighByte : Prop :=
  ∀ (s : State) (g : Engine) (lower upper : Byte), s.engines[s.turn]? = some g → g.phase = .scanning →
    g.buf + g.idx < 2 ^ s.params.aw → plainAddr s.params (g.buf + g.idx) = true →
    lower.toNat = g.salt.toNat % 256 → upper.toNat = g.salt.toNat / 256 →
    ∃ t, exec .decHigh s = .next t ∧
      t.mem.read (g.buf + g.idx) =
        lookup s.params.tables.comp (lookup s.params.tables.high2 (lookup s.params.tables.high1
          (s.mem.read (g.buf + g.idx) + lower) + upper) - upper) - lower ∧
      (∀ a, a ≠ g.buf + g.idx → t.mem.read a = s.mem.read a) ∧
      t = { s with mem := t.mem, engines := s.engines.set s.turn { g with
        salt := BitVec.ofNat 16 ((g.salt.toNat + 1) % 65536),
        idx := g.idx + 1, count := if g.idx + 1 = g.len then g.len else g.count,
        phase := if g.idx + 1 = g.len then .done else .scanning } }

/-- ENC.COMP, one BYTE step (R226, R202), on an engine with ENCODE_EXT and legal tables: the byte at BUF + IDX becomes the one
byte whose T_COMP is the byte that was there; the rest as for DEC.COMP. -/
def Obligations.EncCompByte : Prop :=
  ∀ (s : State) (g : Engine), s.params.encodeExt = true → TablesLegal s.params.tables →
    s.engines[s.turn]? = some g → g.phase = .scanning →
    g.buf + g.idx < 2 ^ s.params.aw → plainAddr s.params (g.buf + g.idx) = true →
    ∃ t, exec .encComp s = .next t ∧
      lookup s.params.tables.comp (t.mem.read (g.buf + g.idx)) = s.mem.read (g.buf + g.idx) ∧
      (∀ a, a ≠ g.buf + g.idx → t.mem.read a = s.mem.read a) ∧
      t = { s with mem := t.mem, engines := s.engines.set s.turn { g with
        idx := g.idx + 1, count := if g.idx + 1 = g.len then g.len else g.count,
        phase := if g.idx + 1 = g.len then .done else .scanning } }

/-- ENC.HIGH, one BYTE step (R226, R203), on an engine with ENCODE_EXT and legal tables: each of the seven `w` of the listing
exists, `w7` is stored, and the three lookups are undone: T_COMP[w2] = w1, T_HIGH2[w4] = w3, T_HIGH1[w6] = w5; SALT advances as
in decoding; the rest as for DEC.COMP. -/
def Obligations.EncHighByte : Prop :=
  ∀ (s : State) (g : Engine) (lower upper : Byte), s.params.encodeExt = true → TablesLegal s.params.tables →
    s.engines[s.turn]? = some g → g.phase = .scanning →
    g.buf + g.idx < 2 ^ s.params.aw → plainAddr s.params (g.buf + g.idx) = true →
    lower.toNat = g.salt.toNat % 256 → upper.toNat = g.salt.toNat / 256 →
    ∃ (t : State) (w2 w4 w6 : Byte), exec .encHigh s = .next t ∧
      lookup s.params.tables.comp w2 = s.mem.read (g.buf + g.idx) + lower ∧
      lookup s.params.tables.high2 w4 = w2 + upper ∧
      lookup s.params.tables.high1 w6 = w4 - upper ∧
      t.mem.read (g.buf + g.idx) = w6 - lower ∧
      (∀ a, a ≠ g.buf + g.idx → t.mem.read a = s.mem.read a) ∧
      t = { s with mem := t.mem, engines := s.engines.set s.turn { g with
        salt := BitVec.ofNat 16 ((g.salt.toNat + 1) % 65536),
        idx := g.idx + 1, count := if g.idx + 1 = g.len then g.len else g.count,
        phase := if g.idx + 1 = g.len then .done else .scanning } }

/-- The frame of all six commands, in every phase: the parameters, the schedule and what the host holds stay; every other
instance stays (R42); of the instance's own registers MODE, KEY, BUF, LEN, DIR stay, SALT but for the High commands and a
VALIDATE step in the High mode, COUNT but at the end of a call, ERR but in a failure, and under a None command IDX; memory changes
at most at BUF + IDX, and not at all but in a BYTE step of a scanning command. -/
def Obligations.CommandFrame : Prop :=
  ∀ (s t : State) (i : Instr) (g : Engine), s.engines[s.turn]? = some g → exec i s = .next t →
    t.params = s.params ∧ t.schedule = s.schedule ∧ t.turn = s.turn ∧ t.hostData = s.hostData ∧ t.fresh = s.fresh ∧
    (∀ f, f ≠ s.turn → t.engines[f]? = s.engines[f]?) ∧
    (∃ h, t.engines[s.turn]? = some h ∧
      h.mode = g.mode ∧ h.key = g.key ∧ h.buf = g.buf ∧ h.len = g.len ∧ h.dir = g.dir ∧ h.written = g.written ∧
      (g.mode ≠ 0x02#8 → isHigh i = false → h.salt = g.salt) ∧
      (g.phase ≠ .validating → h.err = g.err) ∧
      (h.phase ≠ .failed → h.err = g.err) ∧
      (h.phase ≠ .done → h.count = g.count) ∧
      (g.mode = 0x00#8 → scans i = false → h.idx = g.idx) ∧
      (g.busy = false → h = g)) ∧
    (∀ a, a ≠ g.buf + g.idx → t.mem.read a = s.mem.read a) ∧
    ((scans i = false ∨ g.phase ≠ .scanning) → ∀ a, t.mem.read a = s.mem.read a)

end ByteStep

section Salt

/-- R150, R151, R152: `init`, `split` and `advance` in numbers. -/
def Obligations.SaltFunctions : Prop :=
  (∀ k : Key, (saltInit k).toNat = (k.toNat / 65536) ^^^ (k.toNat % 65536)) ∧
  (∀ s : Salt, (saltLower s).toNat = s.toNat % 256 ∧ (saltUpper s).toNat = s.toNat / 256) ∧
  ∀ s : Salt, (saltAdvance s).toNat = (s.toNat + 1) % 65536

/-- R155, which the spec marks as derived from R150 and R152: the closed form is what advancing gives, byte after byte, and it has
period 65536. -/
def Obligations.SaltClosedForm : Prop :=
  ∀ (key : Key) (k : Nat),
    (saltAt key k).toNat = ((saltInit key).toNat + k) % 65536 ∧ saltAt key (k + 1) = saltAdvance (saltAt key k) ∧
    saltAt key (k + 65536) = saltAt key k

/-- R22, and R156, which the spec marks as derived from R150: of the key only its fold reaches a High call, and nothing of it any other call: an engine step with another
KEY (of the same fold in the High mode) is the same step. -/
def Obligations.OnlyTheFoldOfTheKeyCounts : Prop :=
  ∀ (s t : State) (i : Instr) (g : Engine) (key : Key), s.engines[s.turn]? = some g →
    (g.mode = 0x02#8 → saltInit key = saltInit g.key) → exec i s = .next t →
    ∃ h, t.engines[s.turn]? = some h ∧
      exec i { s with engines := s.engines.set s.turn { g with key := key } } =
        .next { t with engines := t.engines.set s.turn { h with key := key } }

end Salt

section Tables

/-- R127, which the spec marks as derived from R124 to R126: the default tables are bijections, T_COMP inverts T_HIGH1, T_HIGH2 is an involution with no fixed point, T_HIGH1 and
T_COMP have exactly the fixed point 0x92, and the source's seven entries are there. -/
def Obligations.DefaultTableProperties : Prop :=
  TablesLegal defaultTables ∧
  (∀ x : Byte, lookup defaultTables.comp (lookup defaultTables.high1 x) = x ∧
    lookup defaultTables.high1 (lookup defaultTables.comp x) = x) ∧
  (∀ x : Byte, lookup defaultTables.high2 (lookup defaultTables.high2 x) = x ∧ lookup defaultTables.high2 x ≠ x) ∧
  (∀ x : Byte, x ≠ 0x92#8 → lookup defaultTables.high1 x ≠ x ∧ lookup defaultTables.comp x ≠ x) ∧
  lookup defaultTables.high1 0x92#8 = 0x92#8 ∧ lookup defaultTables.comp 0x92#8 = 0x92#8

/-- R128, which the spec marks as derived from R120 and R127: a bijective table has exactly one inverse, which is `invLookup`; under the default contents the three inverses are the
three tables. -/
def Obligations.InverseTables : Prop :=
  (∀ (t : Table) (f : Byte → Byte), TableBijective t → ((∀ x, f (lookup t x) = x) ↔ f = invLookup t)) ∧
  ∀ y : Byte, invLookup defaultTables.comp y = lookup defaultTables.high1 y ∧
    invLookup defaultTables.high1 y = lookup defaultTables.comp y ∧
    invLookup defaultTables.high2 y = lookup defaultTables.high2 y

/-- R175, which the spec marks as derived from R169 and R120: for legal tables and any salt, what a byte step does to the byte is a bijection on bytes, for every command. -/
def Obligations.ByteMapsAreBijections : Prop :=
  ∀ (t : Tables) (i : Instr) (salt : Salt), TablesLegal t → Function.Bijective (byteOut t i salt)

/-- R204, which the spec marks as derived from R201 to R203 and R175, byte by byte: for legal tables, every key and every position, encoding undoes decoding and decoding undoes encoding, in
each of the three modes. -/
def Obligations.EncodeDecodeRoundTrip : Prop :=
  ∀ (t : Tables) (d e : Instr) (key : Key) (k : Nat) (b : Byte), TablesLegal t → d.dir = false → e.dir = true →
    d.tag = e.tag →
    byteMap t e key k (byteMap t d key k b) = b ∧ byteMap t d key k (byteMap t e key k b) = b

/-- R176, which the spec marks as derived from R169 and R127: under the default TABLES DEC.HIGH is its own inverse, byte by byte at every salt, so that twice with one key restores
every byte at every position; DEC.COMP is not its own inverse; and the rule's example. -/
def Obligations.DecHighIsItsOwnInverse : Prop :=
  (∀ lower upper b : Byte, highByte defaultTables lower upper (highByte defaultTables lower upper b) = b) ∧
  (∀ (key : Key) (k : Nat) (b : Byte),
    byteMap defaultTables .decHigh key k (byteMap defaultTables .decHigh key k b) = b) ∧
  lookup defaultTables.comp (lookup defaultTables.comp 0x00#8) = 0x1A#8 ∧
  byteMap defaultTables .decHigh 0#32 0 0xB9#8 = 0x00#8 ∧ byteMap defaultTables .decHigh 0#32 1 0x32#8 = 0x00#8

/-- R205, which the spec marks as derived from R203 and R176: under the default TABLES ENC.HIGH is DEC.HIGH and ENC.NONE is DEC.NONE as functions, and ENC.COMP is T_HIGH1 where
DEC.COMP is T_COMP. -/
def Obligations.DefaultEncodeDecodeCoincide : Prop :=
  ∀ (key : Key) (k : Nat) (b : Byte),
    byteMap defaultTables .encHigh key k b = byteMap defaultTables .decHigh key k b ∧
    byteMap defaultTables .encNone key k b = byteMap defaultTables .decNone key k b ∧
    byteMap defaultTables .encComp key k b = lookup defaultTables.high1 b ∧
    byteMap defaultTables .decComp key k b = lookup defaultTables.comp b

/-- The source's vectors (95_test_vectors.md V-SRC1 to V-SRC3) for every legal TABLES; with two equal input bytes giving two
different output bytes, the order sensitivity of the High mode (R172). -/
def Obligations.SourceVectorsForEveryTables : Prop :=
  ∀ t : Tables, TablesLegal t →
    (∀ key k, byteMap t .decComp key k 0x00#8 = 0x47#8) ∧
    byteMap t .decHigh 0x00000000#32 0 0x00#8 = 0xB9#8 ∧ byteMap t .decHigh 0x00000000#32 1 0x00#8 = 0x32#8

end Tables

section WholeCall

/-- R170, and R171, which the spec marks as derived from R166 to R168 and R155 (for the encode commands R201 to R203): a call whose checks pass, given its turns, ends in DONE with COUNT =
LEN and ERR = 0; byte k of the buffer becomes the command's function of it, k and KEY; every other address and every other
instance is unchanged. -/
def Obligations.WholeCall : Prop :=
  ∀ (s : State) (e : Nat) (g : Engine) (i : Instr) (rest : List Event), StateInv s →
    s.engines[e]? = some g → g.phase = .validating → decode s.params.encodeExt (g.sel s.params) = .ok i →
    (g.len = 0 ∨ g.buf ≠ 0) → g.len ≤ maxLen s.params →
    (scans i = true → 0 < g.len → g.buf + g.len ≤ 2 ^ s.params.aw ∧ plainRegion s.params g.region = true) →
    s.schedule = turns e (callSteps i g.len) ++ rest →
    ∃ t h, core.run (callSteps i g.len) s = .next t ∧ t.schedule = rest ∧ t.engines = s.engines.set e h ∧
      h.phase = .done ∧ h.count = g.len ∧ h.err = .noError ∧
      (∀ k, k < g.len → t.mem.read (g.buf + k) = byteMap s.params.tables i g.key k (s.mem.read (g.buf + k))) ∧
      ∀ a, (a < g.buf ∨ g.buf + g.len ≤ a) → t.mem.read a = s.mem.read a

/-- R227: every call, whether it fails or not, ends within 1 + LEN engine steps, unless it would scan a region that wraps or is not
plain memory, to which the spec gives no meaning (R78, R79; a call that makes no access is not subject to them). -/
def Obligations.CallEndsWithinBound : Prop :=
  ∀ (s : State) (e : Nat) (g : Engine) (rest : List Event), StateInv s →
    s.engines[e]? = some g → g.phase = .validating →
    (g.mode = 0x01#8 ∨ g.mode = 0x02#8 → 0 < g.len → g.buf ≠ 0 → g.len ≤ maxLen s.params →
      g.buf + g.len ≤ 2 ^ s.params.aw ∧ plainRegion s.params g.region = true) →
    s.schedule = turns e (1 + g.len) ++ rest →
    ∃ t h, core.run (1 + g.len) s = .next t ∧ t.engines[e]? = some h ∧
      ((h.phase = .done ∧ h.count = g.len ∧ h.err = .noError) ∨ (h.phase = .failed ∧ h.count = 0 ∧ h.err ≠ .noError))

/-- R173, and R259, which the spec marks as derived from R253 and R38: a call that has entered SCANNING cannot fail, whatever is in the buffer: it ends in DONE after exactly
LEN - IDX further byte steps, and is scanning until then. -/
def Obligations.ScanCannotFail : Prop :=
  ∀ (s : State) (e n : Nat) (g : Engine) (rest : List Event), StateInv s →
    s.engines[e]? = some g → g.phase = .scanning → n ≤ g.len - g.idx → s.schedule = turns e n ++ rest →
    ∃ t h, core.run n s = .next t ∧ t.engines[e]? = some h ∧ h.err = .noError ∧ h.idx = g.idx + n ∧
      h.phase = if n = g.len - g.idx then .done else .scanning

/-- R37: nothing survives a call: with other values left in SALT and IDX, a call whose checks pass ends with the same bytes of memory,
COUNT, ERR and PHASE. -/
def Obligations.NothingSurvivesACall : Prop :=
  ∀ (s : State) (e : Nat) (g : Engine) (i : Instr) (salt : Salt) (idx : Nat) (rest : List Event), StateInv s →
    s.engines[e]? = some g → g.phase = .validating → decode s.params.encodeExt (g.sel s.params) = .ok i →
    (g.len = 0 ∨ g.buf ≠ 0) → g.len ≤ maxLen s.params → idx ≤ maxLen s.params →
    (scans i = true → 0 < g.len → g.buf + g.len ≤ 2 ^ s.params.aw ∧ plainRegion s.params g.region = true) →
    s.schedule = turns e (callSteps i g.len) ++ rest →
    ∃ t u h l, core.run (callSteps i g.len) s = .next t ∧
      core.run (callSteps i g.len) { s with engines := s.engines.set e { g with salt := salt, idx := idx } } =
        .next u ∧
      (∀ a, t.mem.read a = u.mem.read a) ∧ t.engines[e]? = some h ∧ u.engines[e]? = some l ∧
      h.count = l.count ∧ h.err = l.err ∧ h.phase = l.phase

/-- R292: a reset that strikes a scan after byte j - 1 leaves bytes 0 to j - 1 of the buffer transformed and the others, and all
memory outside it, as they were; every instance is as after reset. That a reset falls between two byte steps and never inside one is
deduced (log 16), and of `Engine.reset` the values of MODE, KEY, BUF, LEN, SALT and IDX, which R39 leaves unspecified, are the model's
choice (log 1, log 3); PHASE, COUNT, ERR and DIR are R39's. -/
def Obligations.ResetInMidScan : Prop :=
  ∀ (s : State) (e j : Nat) (g : Engine) (i : Instr) (rest : List Event), StateInv s →
    s.engines[e]? = some g → g.phase = .scanning → g.idx = 0 → decode s.params.encodeExt (g.sel s.params) = .ok i →
    j < g.len → s.schedule = turns e j ++ .reset :: rest →
    ∃ t, core.run (j + 1) s = .next t ∧ (∀ h ∈ t.engines, h = Engine.reset) ∧ t.schedule = rest ∧
      (∀ k, k < j → t.mem.read (g.buf + k) = byteMap s.params.tables i g.key k (s.mem.read (g.buf + k))) ∧
      (∀ k, j ≤ k → t.mem.read (g.buf + k) = s.mem.read (g.buf + k)) ∧
      ∀ a, a < g.buf → t.mem.read a = s.mem.read a

end WholeCall

section HostOperations

/-- R221: what a register write does, by register (CTRL apart). "Written since reset" is kept with it (R39). -/
def Obligations.RegisterWrite : Prop :=
  ∀ (s : State) (e n v : Nat) (g : Engine) (rest : List Event), s.engines[e]? = some g →
    s.schedule = .regWrite e n v :: rest →
    (7 < n → step s = .refused (.noSuchRegister n)) ∧
    (n = 5 ∨ n = 6 ∨ n = 7 → step s = .next { s with schedule := rest }) ∧
    (n ≤ 4 → g.busy = true → step s = .next { s with schedule := rest }) ∧
    (g.busy = false →
      (n = 0 → step s = .next { s with
        schedule := rest
        engines := s.engines.set e { g with mode := BitVec.ofNat 8 v, written := { g.written with mode := true } } }) ∧
      (n = 1 → step s = .next { s with
        schedule := rest
        engines := s.engines.set e { g with key := BitVec.ofNat 32 v, written := { g.written with key := true } } }) ∧
      (n = 2 → step s = .next { s with
        schedule := rest
        engines := s.engines.set e { g with buf := v % 2 ^ s.params.aw, written := { g.written with buf := true } } }) ∧
      (n = 3 → step s = .next { s with
        schedule := rest
        engines := s.engines.set e { g with len := v % 2 ^ s.params.aw, written := { g.written with len := true } } }))

/-- R222: what a register read returns, and that it changes nothing on the machine. An operand register not written since reset
returns some value of its width, a free value (log 2). -/
def Obligations.RegisterRead : Prop :=
  ∀ (s : State) (e n : Nat) (g : Engine) (rest : List Event), s.engines[e]? = some g →
    s.schedule = .regRead e n :: rest →
    (7 < n → step s = .refused (.noSuchRegister n)) ∧
    (n ≤ 7 → ∃ v f, step s = .next { s with schedule := rest, hostData := v, fresh := f } ∧
      (n = 0 → v < 2 ^ 8 ∧ (g.written.mode = true → v = g.mode.toNat)) ∧
      (n = 1 → v < 2 ^ 32 ∧ (g.written.key = true → v = g.key.toNat)) ∧
      (n = 2 → (g.written.buf = true → v = g.buf) ∧ (g.written.buf = false → v < 2 ^ s.params.aw)) ∧
      (n = 3 → (g.written.len = true → v = g.len) ∧ (g.written.len = false → v < 2 ^ s.params.aw)) ∧
      (n = 4 → v = if s.params.encodeExt = true ∧ g.dir = true then 2 else 0) ∧
      (n = 5 → v = g.phase.code) ∧ (n = 6 → v = g.count) ∧ (n = 7 → v = g.err.code))

/-- R38: while busy a write to registers 0 to 4 is ignored, reads answer, COUNT and ERR read 0. -/
def Obligations.BusyRegisterAccess : Prop :=
  ∀ (s : State) (e : Nat) (g : Engine) (rest : List Event), StateInv s → s.engines[e]? = some g → g.busy = true →
    (∀ n v, n ≤ 4 → s.schedule = .regWrite e n v :: rest → step s = .next { s with schedule := rest }) ∧
    (∀ n, n ≤ 7 → s.schedule = .regRead e n :: rest → ∃ t, step s = .next t) ∧
    (∀ n, n = 6 ∨ n = 7 → s.schedule = .regRead e n :: rest →
      step s = .next { s with schedule := rest, hostData := 0 })

/-- R223: a write to CTRL of an instance that is not busy sets DIR if the bit exists, and with v[0] = 1 begins the call, the
direction being bit 1 of that very write; while busy it is ignored whole. The operands must have been written and the region must
be free (R293, R232). Two things are the model's choice: that a START accepted leaves SALT and IDX alone (log 3), and that KEY need
not have been written for the tags of None and Compressible (log 4). -/
def Obligations.StartBeginsACall : Prop :=
  ∀ (s : State) (e v : Nat) (g : Engine) (rest : List Event), s.engines[e]? = some g →
    s.schedule = .regWrite e 4 v :: rest →
    (g.busy = true → step s = .next { s with schedule := rest }) ∧
    (g.busy = false → v.testBit 0 = false → step s = .next { s with
      schedule := rest, engines := s.engines.set e { g with dir := if s.params.encodeExt then v.testBit 1 else g.dir } }) ∧
    (g.busy = false → v.testBit 0 = true → g.operandsWritten = true → s.overlapsRunning g = false →
      step s = .next { s with
        schedule := rest
        engines := s.engines.set e { g with
          dir := if s.params.encodeExt then v.testBit 1 else g.dir
          count := 0
          err := .noError
          phase := .validating } })

/-- R293: a START before MODE, BUF and LEN have been written since reset, or KEY for a call that is neither None nor
Compressible, is refused; that KEY alone is excepted, and for these two tags, is the model's choice (log 4). -/
def Obligations.StartNeedsItsOperands : Prop :=
  ∀ (s : State) (e v : Nat) (g : Engine) (rest : List Event), s.engines[e]? = some g → g.busy = false →
    s.schedule = .regWrite e 4 v :: rest → v.testBit 0 = true →
    (g.written.mode = false ∨ g.written.buf = false ∨ g.written.len = false ∨
      (g.written.key = false ∧ g.mode ≠ 0x00#8 ∧ g.mode ≠ 0x01#8)) →
    step s = .refused .operandNeverWritten

/-- While a call runs, an access to a byte of its region by the host or another agent is refused (R71), and so is a START whose
region shares a byte with it (R232); elsewhere in plain memory (R78) the access is made (R220). That a running call with a null BUF
owns no byte is deduced (log 10), and that an access is of one byte is the model's choice (log 20). -/
def Obligations.RunningCallOwnsItsRegion : Prop :=
  ∀ (s : State) (rest : List Event),
    (∀ (h : Engine) (a : Nat), h ∈ s.engines → h.busy = true → h.buf ≠ 0 → h.buf ≤ a → a < h.buf + h.len →
      a < 2 ^ s.params.aw →
      (s.schedule = .memRead a :: rest → step s = .refused .bufferOwned) ∧
      ∀ v, s.schedule = .memWrite a v :: rest → step s = .refused .bufferOwned) ∧
    (∀ (h g : Engine) (e v a : Nat), h ∈ s.engines → h.busy = true → s.engines[e]? = some g → g.busy = false →
      h.buf ≠ 0 → g.buf ≠ 0 → h.buf ≤ a → a < h.buf + h.len → g.buf ≤ a → a < g.buf + g.len →
      s.schedule = .regWrite e 4 v :: rest → v.testBit 0 = true → g.operandsWritten = true →
      step s = .refused .bufferOwned) ∧
    ∀ a : Nat, a < 2 ^ s.params.aw → plainAddr s.params a = true → s.owned a = false →
      (s.schedule = .memRead a :: rest →
        step s = .next { s with schedule := rest, hostData := (s.mem.read a).toNat }) ∧
      ∀ v, s.schedule = .memWrite a v :: rest → ∃ t, step s = .next t ∧
        t = { s with schedule := rest, mem := t.mem } ∧
        ∀ b, t.mem.read b = if b = a then v else s.mem.read b

/-- A host access at an address of 2^AW or above, which does not exist (R61), faults; one at an address that is not plain memory
(R78) is refused. Both stops are the model's choice (log 11, log 21). -/
def Obligations.HostAccessNeedsMemory : Prop :=
  ∀ (s : State) (a : Nat) (v : Byte) (rest : List Event),
    (s.schedule = .memRead a :: rest ∨ s.schedule = .memWrite a v :: rest) →
    (2 ^ s.params.aw ≤ a → step s = .fault (.noSuchAddress a)) ∧
    (a < 2 ^ s.params.aw → s.owned a = false → plainAddr s.params a = false → step s = .refused .notPlainMemory)

/-- WAIT (30_encoding.md R98; an event of the schedule by the model's choice, log 17): once the call has ended, it answers 3 or 4 and ends. -/
def Obligations.WaitAnswersTheEnd : Prop :=
  ∀ (s : State) (e : Nat) (g : Engine) (rest : List Event), s.engines[e]? = some g →
    s.schedule = .wait e :: rest →
    (g.phase = .done → step s = .next { s with schedule := rest, hostData := 3 }) ∧
    (g.phase = .failed → step s = .next { s with schedule := rest, hostData := 4 })

/-- R206: without ENCODE_EXT a write of DIR = 1 is no error: the bit is not stored, and a START so written on a legal tag starts
the decode command of that tag. Which operands must have been written is R293 with the model's choice for KEY (log 4). -/
def Obligations.NoDirectionBitWithoutExtension : Prop :=
  ∀ (s : State) (e : Nat) (g : Engine) (rest : List Event), s.params.encodeExt = false → s.engines[e]? = some g →
    g.busy = false → s.schedule = .regWrite e 4 3 :: rest → g.operandsWritten = true → s.overlapsRunning g = false →
    ∃ t h, step s = .next t ∧ t.engines = s.engines.set e h ∧ h.phase = .validating ∧ h.dir = g.dir ∧
      (g.mode.toNat ≤ 2 → ∃ i, decode s.params.encodeExt (h.sel s.params) = .ok i ∧ i.dir = false ∧ i.tag = g.mode)

end HostOperations

section Reset

/-- R290: reset puts every instance to IDLE with COUNT, ERR and DIR 0, and touches neither MEM nor the tables; after it an
instance takes no step. -/
def Obligations.ResetEvent : Prop :=
  ∀ (s : State) (rest : List Event), s.schedule = .reset :: rest →
    ∃ t, step s = .next t ∧ t.mem = s.mem ∧ t.params = s.params ∧ t.schedule = rest ∧
      t.engines.length = s.engines.length ∧
      (∀ h ∈ t.engines, h.phase = .idle ∧ h.count = 0 ∧ h.err = .noError ∧ h.dir = false) ∧
      ∀ e r, t.schedule = .engine e :: r → e < t.engines.length → step t = .next { t with schedule := r }

/-- R39: from reset, STATUS, COUNT, ERR and CTRL read 0, and a START is refused, since no operand has been written. The values of
MODE, KEY, BUF, LEN, SALT and IDX, which the rule leaves unspecified, are not spoken of. -/
def Obligations.ResetValues : Prop :=
  ∀ (p : Params) (n e : Nat) (rest : List Event), e < n →
    (∀ r, r = 4 ∨ r = 5 ∨ r = 6 ∨ r = 7 →
      step { State.resetWith p n with schedule := .regRead e r :: rest } =
        .next { State.resetWith p n with schedule := rest, hostData := 0 }) ∧
    ∀ v, v.testBit 0 = true →
      step { State.resetWith p n with schedule := .regWrite e 4 v :: rest } = .refused .operandNeverWritten

/-- The invariant of the machine holds right after reset, for every legal choice of the parameters and at the defaults. The values
of MODE, KEY, BUF, LEN, SALT and IDX in `State.resetWith` are the model's (log 1, log 3). -/
def Obligations.ResetMeetsInvariant : Prop :=
  (∀ (p : Params) (n : Nat), ParamsLegal p → 0 < n → StateInv (State.resetWith p n)) ∧ StateInv State.reset

end Reset

section WholeMachine

/-- Every step keeps the invariant: among others that ERR is non-zero exactly in FAILED (R28), COUNT is 0 but in DONE (R27),
IDX < LEN <= MAX_LEN while SCANNING (R226, R30), the salt follows the closed form (R155), running calls have disjoint regions (R232), and
MEM keeps its canonical form (the model's, log 9). -/
def Obligations.StepKeepsInvariant : Prop := ∀ s t : State, StateInv s → step s = .next t → StateInv t

/-- R224: the phase machine. In any step but a reset an instance keeps its phase or makes one of the listed transitions, under the
listed conditions (out of IDLE, DONE and FAILED only by a START written to that instance); none leads from SCANNING to FAILED. A
reset leads to IDLE. -/
def Obligations.PhaseMachine : Prop :=
  ∀ (s t : State) (e : Nat) (g h : Engine), StateInv s → step s = .next t →
    s.engines[e]? = some g → t.engines[e]? = some h →
    (s.schedule.head? = some .reset → h.phase = .idle) ∧
    (s.schedule.head? ≠ some .reset →
      (g.phase = .idle ∨ g.phase = .done ∨ g.phase = .failed → h.phase = g.phase ∨
        (h.phase = .validating ∧ ∃ v rest, s.schedule = .regWrite e 4 v :: rest ∧ v.testBit 0 = true)) ∧
      (g.phase = .validating → h.phase = .validating ∨
        (h.phase = .failed ∧ (2 < g.mode.toNat ∨ (0 < g.len ∧ g.buf = 0) ∨ maxLen s.params < g.len)) ∨
        (g.mode.toNat ≤ 2 ∧ (g.len = 0 ∨ g.buf ≠ 0) ∧ g.len ≤ maxLen s.params ∧
          ((h.phase = .done ∧ (g.mode = 0x00#8 ∨ g.len = 0)) ∨
            (h.phase = .scanning ∧ (g.mode = 0x01#8 ∨ g.mode = 0x02#8) ∧ 0 < g.len)))) ∧
      (g.phase = .scanning → (h.phase = .scanning ∧ h.idx < h.len) ∨ (h.phase = .done ∧ h.idx = h.len)))

/-- R38, R75: the operands and DIR of a running call are constant until it ends: no step but a reset changes them, and none
changes the tables or any other parameter. -/
def Obligations.OperandsFrozenWhileBusy : Prop :=
  ∀ (s t : State) (e : Nat) (g h : Engine), step s = .next t → s.engines[e]? = some g → t.engines[e]? = some h →
    t.params = s.params ∧
    (g.busy = true → s.schedule.head? ≠ some .reset →
      h.mode = g.mode ∧ h.key = g.key ∧ h.buf = g.buf ∧ h.len = g.len ∧ h.dir = g.dir)

/-- R257, R255: a failed call's PHASE and ERR persist until a START is accepted on that instance or a reset. -/
def Obligations.FailureIsSticky : Prop :=
  ∀ (s t : State) (e : Nat) (g h : Engine), step s = .next t → s.engines[e]? = some g → t.engines[e]? = some h →
    g.phase = .failed →
    (h.phase = .failed ∧ h.err = g.err ∧ h.count = g.count) ∨
    (h.phase = .validating ∧ h.err = .noError ∧ h.count = 0 ∧
      ∃ v rest, s.schedule = .regWrite e 4 v :: rest ∧ v.testBit 0 = true) ∨
    ∃ rest, s.schedule = .reset :: rest

/-- R42, R232, and R67, which the spec marks as derived from R167 and R168: an engine step of one instance, in each of the three
ways of `StepRunsDecoded` to be given the turn (the model's choice, log 6, log 17), writes no address outside its own buffer region,
changes no register of another instance, and no byte of the region of another running call. -/
def Obligations.EngineStepsAreIsolated : Prop :=
  ∀ (s t : State) (e : Nat) (g : Engine), StateInv s → s.engines[e]? = some g →
    ((∃ rest, s.schedule = .engine e :: rest) ∨ (∃ rest, s.schedule = .wait e :: rest) ∨
      (s.schedule = [] ∧ s.engines.findIdx? (fun h => h.busy) = some e)) → step s = .next t →
    (∀ a, (a < g.buf ∨ g.buf + g.len ≤ a) → t.mem.read a = s.mem.read a) ∧
    (∀ f, f ≠ e → t.engines[f]? = s.engines[f]?) ∧
    ∀ (f : Nat) (h : Engine) (a : Nat), f ≠ e → s.engines[f]? = some h → h.busy = true → h.buf ≠ 0 →
      h.buf ≤ a → a < h.buf + h.len → t.mem.read a = s.mem.read a

/-- R70, R254: no step of the machine in which a call fails changes MEM, and a failed step touches of the instance only ERR and
PHASE. -/
def Obligations.FailureLeavesEverythingElse : Prop :=
  ∀ (s t : State) (e : Nat) (g h : Engine), step s = .next t → s.engines[e]? = some g → t.engines[e]? = some h →
    g.phase ≠ .failed → h.phase = .failed →
    t.mem = s.mem ∧ g.phase = .validating ∧ h.err ≠ .noError ∧ h = { g with err := h.err, phase := .failed } ∧
    ∀ f, f ≠ e → t.engines[f]? = s.engines[f]?

end WholeMachine
end

