-- ==== Sys2Proof/Laws/Decode.lean ====
section
/-! SUPPORT. What it says of a selector, and of an instance's registers, that it decodes to a command (30_encoding.md R90,
R93). -/

namespace Sys2Proof

@[simp] theorem selMode_selOf (d : Bool) (m : Byte) : selMode (selOf d m) = m := by
  simp only [selMode, selOf]
  ext i hi
  simp

@[simp] theorem selDir_selOf (d : Bool) (m : Byte) : selDir (selOf d m) = d := by
  rw [selDir, selOf, BitVec.getLsbD_cons, if_pos rfl]

/-- A selector is its two fields. -/
theorem selOf_fields (sel : Sel) : selOf (selDir sel) (selMode sel) = sel := by
  simp only [selMode, selOf, selDir]
  ext i hi
  rw [BitVec.getElem_cons]
  split
  · next h => subst h; rfl
  · next h => simp [BitVec.getLsbD_eq_getElem hi]

/-- A selector that decodes to a command has the row's two fields, and the engine has the command. -/
theorem decode_ok {ext : Bool} {sel : Sel} {i : Instr} (h : decode ext sel = .ok i) :
    selMode sel = i.tag ∧ selDir sel = i.dir ∧ i.wellFormed ext = true := by
  unfold decode at h
  cases hd : selDir sel <;> cases ext <;> simp only [hd] at h <;> repeat' (split at h)
  all_goals try cases h
  all_goals simp_all [Instr.tag, Instr.dir, Instr.wellFormed, Instr.isEncode]

/-- The fields of a command's row decode to the command on an engine that has it. -/
theorem decode_selOf {ext : Bool} {i : Instr} (h : i.wellFormed ext = true) :
    decode ext (selOf i.dir i.tag) = .ok i := by
  cases i <;> cases ext <;> first | (exact absurd h (by decide)) | rfl

namespace Machine

/-- What it says of the registers that the instance's selector decodes to the command `i`. -/
theorem Engine.decode_sel {p : Params} {g : Engine} {i : Instr} (h : decode p.encodeExt (g.sel p) = .ok i) :
    g.mode = i.tag ∧ g.dirBit p = i.dir ∧ i.wellFormed p.encodeExt = true := by
  have := decode_ok h
  simpa [Engine.sel] using this

/-- The High commands are those of the High tag. -/
theorem tag_eq_high (i : Instr) : i.tag = tagHigh ↔ isHigh i = true := by cases i <;> decide

/-- The scanning commands are those of another tag than None's. -/
theorem tag_eq_none (i : Instr) : i.tag = tagNone ↔ scans i = false := by cases i <;> decide

end Machine

end Sys2Proof
end

