-- ==== Sys2Proof/Laws/Memory.lean ====
section
/-! SUPPORT. The laws of MEM: a read after a write, other addresses, and that every operation keeps the canonical form. -/

namespace Sys2Proof.Machine

theorem Memory.read_filter_ne (m : Memory) {a b : Nat} (h : b ≠ a) :
    Memory.read (m.filter (fun c => c.1 ≠ a)) b = Memory.read m b := by
  induction m with
  | nil => rfl
  | cons c m ih =>
    obtain ⟨k, w⟩ := c
    by_cases hk : k = a
    · have hkb : k ≠ b := fun e => h (e ▸ hk)
      rw [List.filter_cons_of_neg (by simpa using hk), ih, Memory.read, if_neg hkb]
    · rw [List.filter_cons_of_pos (by simpa using hk), Memory.read, Memory.read, ih]

theorem Memory.read_of_not_listed (m : Memory) {a : Nat} (h : ∀ c ∈ m, c.1 ≠ a) :
    Memory.read m a = Memory.unlisted := by
  induction m with
  | nil => rfl
  | cons c m ih =>
    simp only [Memory.read, if_neg (h c (by simp))]
    exact ih fun d hd => h d (by simp [hd])

theorem Memory.filter_not_listed (m : Memory) (a : Nat) : ∀ c ∈ m.filter (fun c => c.1 ≠ a), c.1 ≠ a := by
  intro c hc
  simpa using (List.mem_filter.1 hc).2

theorem Memory.read_insert (m : Memory) {a : Nat} (v : Byte) (h : ∀ c ∈ m, c.1 ≠ a) (b : Nat) :
    Memory.read (Memory.insert m a v) b = if a = b then v else Memory.read m b := by
  induction m with
  | nil => rfl
  | cons c m ih =>
    obtain ⟨k, w⟩ := c
    have hk : k ≠ a := h (k, w) (by simp)
    have ih := ih fun d hd => h d (by simp [hd])
    simp only [Memory.insert]
    split
    · rfl
    · simp only [Memory.read, ih]
      by_cases hb : k = b
      · subst hb; simp [Ne.symm hk]
      · simp [hb]

/-- A read after a write (20_memory.md R78: memory "that returns on read the last value written"), on every list. -/
theorem Memory.read_write (m : Memory) (a : Nat) (v : Byte) (b : Nat) :
    (m.write a v).read b = if a = b then v else m.read b := by
  unfold Memory.write
  have hf := Memory.filter_not_listed m a
  by_cases hv : v = Memory.unlisted
  · rw [if_pos hv]
    by_cases hb : a = b
    · subst hb; rw [if_pos rfl, hv, Memory.read_of_not_listed _ hf]
    · rw [if_neg hb, Memory.read_filter_ne m (Ne.symm hb)]
  · rw [if_neg hv, Memory.read_insert _ _ hf]
    split
    · rfl
    · next hb => exact Memory.read_filter_ne m (Ne.symm hb)

@[simp] theorem Memory.read_write_same (m : Memory) (a : Nat) (v : Byte) : (m.write a v).read a = v := by
  simp [Memory.read_write]

theorem Memory.read_write_ne (m : Memory) {a b : Nat} (v : Byte) (h : b ≠ a) :
    (m.write a v).read b = m.read b := by
  rw [Memory.read_write, if_neg (Ne.symm h)]

theorem Memory.mem_insert (m : Memory) (a : Nat) (v : Byte) (c : Host.Cell) :
    c ∈ Memory.insert m a v ↔ c = (a, v) ∨ c ∈ m := by
  induction m with
  | nil => simp [Memory.insert]
  | cons d m ih =>
    simp only [Memory.insert]
    split
    · simp
    · simp only [List.mem_cons, ih]; tauto

/-- An entry after a write was there before, or is the one written. -/
theorem Memory.mem_write (m : Memory) (a : Nat) (v : Byte) {c : Host.Cell} (h : c ∈ m.write a v) :
    c = (a, v) ∨ c ∈ m := by
  unfold Memory.write at h
  split at h
  · exact .inr (List.mem_filter.1 h).1
  · rcases (Memory.mem_insert _ _ _ _).1 h with h | h
    · exact .inl h
    · exact .inr (List.mem_filter.1 h).1

theorem Memory.pairwise_insert {m : Memory} {a : Nat} (v : Byte) (hp : m.Pairwise (fun c d => c.1 < d.1))
    (h : ∀ c ∈ m, c.1 ≠ a) : (Memory.insert m a v).Pairwise (fun c d => c.1 < d.1) := by
  induction m with
  | nil => simp [Memory.insert]
  | cons c m ih =>
    obtain ⟨k, w⟩ := c
    obtain ⟨hlt, hp⟩ := List.pairwise_cons.1 hp
    simp only [Memory.insert]
    split
    · next hak =>
      refine List.pairwise_cons.2 ⟨fun d hd => ?_, List.pairwise_cons.2 ⟨hlt, hp⟩⟩
      rcases List.mem_cons.1 hd with rfl | hd
      · exact hak
      · exact Nat.lt_trans hak (hlt d hd)
    · next hak =>
      refine List.pairwise_cons.2 ⟨fun d hd => ?_, ih hp fun d hd => h d (by simp [hd])⟩
      rcases (Memory.mem_insert _ _ _ _).1 hd with rfl | hd
      · exact lt_of_le_of_ne (Nat.le_of_not_lt hak) (h (k, w) (by simp))
      · exact hlt d hd

/-- What the canonical form says. -/
theorem Memory.wf_iff (m : Memory) :
    m.wf = true ↔ m.Pairwise (fun c d => c.1 < d.1) ∧ ∀ c ∈ m, c.2 ≠ Memory.unlisted := by
  simp [Memory.wf]

/-- A write keeps the canonical form. -/
theorem Memory.write_wf {m : Memory} (h : m.wf = true) (a : Nat) (v : Byte) : (m.write a v).wf = true := by
  rw [Memory.wf_iff] at h ⊢
  refine ⟨?_, fun c hc => ?_⟩
  · unfold Memory.write
    have hp := List.Pairwise.filter (fun c : Host.Cell => decide (c.1 ≠ a)) h.1
    split
    · exact hp
    · exact Memory.pairwise_insert v hp (Memory.filter_not_listed m a)
  · by_cases hv : v = Memory.unlisted
    · unfold Memory.write at hc
      rw [if_pos hv] at hc
      exact h.2 c (List.mem_filter.1 hc).1
    · rcases Memory.mem_write m a v hc with rfl | hc
      · exact hv
      · exact h.2 c hc

theorem Memory.writeAll_wf {m : Memory} (h : m.wf = true) (a : Nat) (bs : List Byte) :
    (Memory.writeAll m a bs).wf = true := by
  induction bs generalizing m a with
  | nil => exact h
  | cons b bs ih => exact ih (Memory.write_wf h a b) (a + 1)

@[simp] theorem Memory.reset_wf (p : Params) (n : Nat) : (State.resetWith p n).mem.wf = true := rfl

/-- Equal memories are equal data: two canonical memories that read alike everywhere are the same list. -/
theorem Memory.ext_of_wf {m n : Memory} (hm : m.wf = true) (hn : n.wf = true) (h : ∀ a, m.read a = n.read a) : m = n := by
  have listed : ∀ {l : Memory}, l.wf = true → ∀ c, c ∈ l ↔ l.read c.1 = c.2 ∧ c.2 ≠ Memory.unlisted := by
    intro l hl c
    rw [Memory.wf_iff] at hl
    obtain ⟨hp, hu⟩ := hl
    induction l with
    | nil => simp only [List.not_mem_nil, Memory.read, false_iff, not_and, not_not]; exact Eq.symm
    | cons d l ih =>
      obtain ⟨hlt, hp⟩ := List.pairwise_cons.1 hp
      have ih := ih hp fun c hc => hu c (by simp [hc])
      simp only [List.mem_cons, Memory.read]
      constructor
      · rintro (rfl | hc)
        · simpa using hu c (by simp)
        · rw [if_neg (Nat.ne_of_lt (hlt c hc))]; exact ih.1 hc
      · rintro ⟨hr, hne⟩
        by_cases hd : d.1 = c.1
        · rw [if_pos hd] at hr; exact .inl (Prod.ext hd.symm hr.symm)
        · rw [if_neg hd] at hr; exact .inr (ih.2 ⟨hr, hne⟩)
  have hmem : ∀ c, c ∈ m ↔ c ∈ n := fun c => by rw [listed hm, listed hn, h]
  rw [Memory.wf_iff] at hm hn
  have nodup : ∀ {l : Memory}, l.Pairwise (fun c d => c.1 < d.1) → l.Nodup := fun hp =>
    List.Pairwise.imp (fun hlt e => Nat.ne_of_lt hlt (congrArg Prod.fst e)) hp
  exact List.Perm.eq_of_pairwise (fun a b _ _ h1 h2 => absurd (Nat.lt_trans h1 h2) (Nat.lt_irrefl _)) hm.1 hn.1
    ((List.perm_ext_iff_of_nodup (nodup hm.1) (nodup hn.1)).2 hmem)

end Sys2Proof.Machine
end

