-- ==== Sys2Proof/Laws/PerInstr.lean ====
section
/-! SUPPORT. The family `Selector`: for each command, what its selector is in numbers (30_encoding.md R90, R93). -/

namespace Sys2Proof.Laws.Selector

/-- The selector of a command is its tag, plus 256 for an encode command; the tag is one of the three; and an engine without
ENCODE_EXT has the command exactly when the selector is below 256. -/
def Statement (i : Instr) : Prop :=
  (encode i).toNat = i.tag.toNat + (if i.dir then 256 else 0) ∧ i.tag.toNat ≤ 2 ∧
    (i.wellFormed false = true ↔ (encode i).toNat < 256)

theorem decNone : Statement .decNone := by unfold Statement; decide

theorem decComp : Statement .decComp := by unfold Statement; decide

theorem decHigh : Statement .decHigh := by unfold Statement; decide

theorem encNone : Statement .encNone := by unfold Statement; decide

theorem encComp : Statement .encComp := by unfold Statement; decide

theorem encHigh : Statement .encHigh := by unfold Statement; decide

end Sys2Proof.Laws.Selector
end

