-- ==== Sys2Proof/Laws/State.lean ====
section
/-! SUPPORT. What each update of the state and of an instance leaves and changes, field by field. -/

namespace Sys2Proof.Machine

section StateUpdates
variable (s : State) (e : Nat) (g : Engine) (v : Nat)

@[simp] theorem State.setEngine_params : (s.setEngine e g).params = s.params := rfl
@[simp] theorem State.setEngine_engines : (s.setEngine e g).engines = s.engines.set e g := rfl
@[simp] theorem State.setEngine_mem : (s.setEngine e g).mem = s.mem := rfl
@[simp] theorem State.setEngine_schedule : (s.setEngine e g).schedule = s.schedule := rfl
@[simp] theorem State.setEngine_turn : (s.setEngine e g).turn = s.turn := rfl
@[simp] theorem State.setEngine_hostData : (s.setEngine e g).hostData = s.hostData := rfl
@[simp] theorem State.setEngine_fresh : (s.setEngine e g).fresh = s.fresh := rfl

@[simp] theorem State.setCurrent_params : (s.setCurrent g).params = s.params := rfl
@[simp] theorem State.setCurrent_engines : (s.setCurrent g).engines = s.engines.set s.turn g := rfl
@[simp] theorem State.setCurrent_mem : (s.setCurrent g).mem = s.mem := rfl
@[simp] theorem State.setCurrent_schedule : (s.setCurrent g).schedule = s.schedule := rfl
@[simp] theorem State.setCurrent_turn : (s.setCurrent g).turn = s.turn := rfl
@[simp] theorem State.setCurrent_hostData : (s.setCurrent g).hostData = s.hostData := rfl
@[simp] theorem State.setCurrent_fresh : (s.setCurrent g).fresh = s.fresh := rfl

@[simp] theorem State.answer_params : (s.answer v).params = s.params := rfl
@[simp] theorem State.answer_engines : (s.answer v).engines = s.engines := rfl
@[simp] theorem State.answer_mem : (s.answer v).mem = s.mem := rfl
@[simp] theorem State.answer_schedule : (s.answer v).schedule = s.schedule := rfl
@[simp] theorem State.answer_turn : (s.answer v).turn = s.turn := rfl
@[simp] theorem State.answer_hostData : (s.answer v).hostData = v := rfl
@[simp] theorem State.answer_fresh : (s.answer v).fresh = s.fresh := rfl

end StateUpdates

section EngineUpdates
variable (p : Params) (g : Engine) (k : ErrKind) (high : Bool)

@[simp] theorem Engine.accept_mode : (g.accept).mode = g.mode := rfl
@[simp] theorem Engine.accept_key : (g.accept).key = g.key := rfl
@[simp] theorem Engine.accept_buf : (g.accept).buf = g.buf := rfl
@[simp] theorem Engine.accept_len : (g.accept).len = g.len := rfl
@[simp] theorem Engine.accept_dir : (g.accept).dir = g.dir := rfl
@[simp] theorem Engine.accept_phase : (g.accept).phase = .validating := rfl
@[simp] theorem Engine.accept_count : (g.accept).count = 0 := rfl
@[simp] theorem Engine.accept_err : (g.accept).err = .noError := rfl
@[simp] theorem Engine.accept_salt : (g.accept).salt = g.salt := rfl
@[simp] theorem Engine.accept_idx : (g.accept).idx = g.idx := rfl
@[simp] theorem Engine.accept_written : (g.accept).written = g.written := rfl

@[simp] theorem Engine.raise_mode : (g.raise k).mode = g.mode := rfl
@[simp] theorem Engine.raise_key : (g.raise k).key = g.key := rfl
@[simp] theorem Engine.raise_buf : (g.raise k).buf = g.buf := rfl
@[simp] theorem Engine.raise_len : (g.raise k).len = g.len := rfl
@[simp] theorem Engine.raise_dir : (g.raise k).dir = g.dir := rfl
@[simp] theorem Engine.raise_phase : (g.raise k).phase = .failed := rfl
@[simp] theorem Engine.raise_count : (g.raise k).count = g.count := rfl
@[simp] theorem Engine.raise_err : (g.raise k).err = k := rfl
@[simp] theorem Engine.raise_salt : (g.raise k).salt = g.salt := rfl
@[simp] theorem Engine.raise_idx : (g.raise k).idx = g.idx := rfl
@[simp] theorem Engine.raise_written : (g.raise k).written = g.written := rfl

@[simp] theorem Engine.finish_mode : (g.finish).mode = g.mode := rfl
@[simp] theorem Engine.finish_key : (g.finish).key = g.key := rfl
@[simp] theorem Engine.finish_buf : (g.finish).buf = g.buf := rfl
@[simp] theorem Engine.finish_len : (g.finish).len = g.len := rfl
@[simp] theorem Engine.finish_dir : (g.finish).dir = g.dir := rfl
@[simp] theorem Engine.finish_phase : (g.finish).phase = .done := rfl
@[simp] theorem Engine.finish_count : (g.finish).count = g.len := rfl
@[simp] theorem Engine.finish_err : (g.finish).err = g.err := rfl
@[simp] theorem Engine.finish_salt : (g.finish).salt = g.salt := rfl
@[simp] theorem Engine.finish_idx : (g.finish).idx = g.idx := rfl
@[simp] theorem Engine.finish_written : (g.finish).written = g.written := rfl

@[simp] theorem Engine.enterScan_mode : (g.enterScan high).mode = g.mode := rfl
@[simp] theorem Engine.enterScan_key : (g.enterScan high).key = g.key := rfl
@[simp] theorem Engine.enterScan_buf : (g.enterScan high).buf = g.buf := rfl
@[simp] theorem Engine.enterScan_len : (g.enterScan high).len = g.len := rfl
@[simp] theorem Engine.enterScan_dir : (g.enterScan high).dir = g.dir := rfl
@[simp] theorem Engine.enterScan_phase : (g.enterScan high).phase = .scanning := rfl
@[simp] theorem Engine.enterScan_count : (g.enterScan high).count = g.count := rfl
@[simp] theorem Engine.enterScan_err : (g.enterScan high).err = g.err := rfl
@[simp] theorem Engine.enterScan_salt : (g.enterScan high).salt = if high then saltInit g.key else g.salt := rfl
@[simp] theorem Engine.enterScan_idx : (g.enterScan high).idx = 0 := rfl
@[simp] theorem Engine.enterScan_written : (g.enterScan high).written = g.written := rfl

@[simp] theorem Engine.advance_mode : (g.advance high).mode = g.mode := by
  simp only [Engine.advance]; split <;> rfl
@[simp] theorem Engine.advance_key : (g.advance high).key = g.key := by
  simp only [Engine.advance]; split <;> rfl
@[simp] theorem Engine.advance_buf : (g.advance high).buf = g.buf := by
  simp only [Engine.advance]; split <;> rfl
@[simp] theorem Engine.advance_len : (g.advance high).len = g.len := by
  simp only [Engine.advance]; split <;> rfl
@[simp] theorem Engine.advance_dir : (g.advance high).dir = g.dir := by
  simp only [Engine.advance]; split <;> rfl
@[simp] theorem Engine.advance_err : (g.advance high).err = g.err := by
  simp only [Engine.advance]; split <;> rfl
@[simp] theorem Engine.advance_written : (g.advance high).written = g.written := by
  simp only [Engine.advance]; split <;> rfl
@[simp] theorem Engine.advance_idx : (g.advance high).idx = g.idx + 1 := by
  simp only [Engine.advance]; split <;> rfl
@[simp] theorem Engine.advance_salt : (g.advance high).salt = if high then saltAdvance g.salt else g.salt := by
  simp only [Engine.advance]; split <;> rfl
/-- The call ends at IDX = LEN (45_host_commands.md R226). -/
theorem Engine.advance_phase : (g.advance high).phase = if g.idx + 1 = g.len then .done else g.phase := by
  simp only [Engine.advance]; split <;> simp_all
theorem Engine.advance_count : (g.advance high).count = if g.idx + 1 = g.len then g.len else g.count := by
  simp only [Engine.advance]; split <;> simp_all

@[simp] theorem Engine.setDir_mode (v : Nat) : (g.setDir p v).mode = g.mode := by
  simp only [Engine.setDir]; split <;> rfl
@[simp] theorem Engine.setDir_key (v : Nat) : (g.setDir p v).key = g.key := by
  simp only [Engine.setDir]; split <;> rfl
@[simp] theorem Engine.setDir_buf (v : Nat) : (g.setDir p v).buf = g.buf := by
  simp only [Engine.setDir]; split <;> rfl
@[simp] theorem Engine.setDir_len (v : Nat) : (g.setDir p v).len = g.len := by
  simp only [Engine.setDir]; split <;> rfl
@[simp] theorem Engine.setDir_phase (v : Nat) : (g.setDir p v).phase = g.phase := by
  simp only [Engine.setDir]; split <;> rfl
@[simp] theorem Engine.setDir_count (v : Nat) : (g.setDir p v).count = g.count := by
  simp only [Engine.setDir]; split <;> rfl
@[simp] theorem Engine.setDir_err (v : Nat) : (g.setDir p v).err = g.err := by
  simp only [Engine.setDir]; split <;> rfl
@[simp] theorem Engine.setDir_salt (v : Nat) : (g.setDir p v).salt = g.salt := by
  simp only [Engine.setDir]; split <;> rfl
@[simp] theorem Engine.setDir_idx (v : Nat) : (g.setDir p v).idx = g.idx := by
  simp only [Engine.setDir]; split <;> rfl
@[simp] theorem Engine.setDir_written (v : Nat) : (g.setDir p v).written = g.written := by
  simp only [Engine.setDir]; split <;> rfl
theorem Engine.setDir_dir (v : Nat) : (g.setDir p v).dir = if p.encodeExt then v.testBit 1 else g.dir := by
  simp only [Engine.setDir]; split <;> rfl

/-- No step of a call moves its buffer region (20_memory.md R62: it is read from the operand registers, which are frozen). -/
@[simp] theorem Engine.accept_region : g.accept.region = g.region := rfl
@[simp] theorem Engine.raise_region : (g.raise k).region = g.region := rfl
@[simp] theorem Engine.finish_region : g.finish.region = g.region := rfl
@[simp] theorem Engine.enterScan_region : (g.enterScan high).region = g.region := rfl
@[simp] theorem Engine.advance_region : (g.advance high).region = g.region := by
  simp only [Engine.advance]; split <;> rfl
@[simp] theorem Engine.setDir_region (v : Nat) : (g.setDir p v).region = g.region := by
  simp only [Engine.setDir]; split <;> rfl

end EngineUpdates

end Sys2Proof.Machine
end

