-- ==== Sys2Proof/Laws/Scan.lean ====
section
/-! SUPPORT. What one engine step can do, said once: the outcome of VALIDATE, of BYTE, and of `exec`. -/

namespace Sys2Proof.Machine

/-- Which registers `g'` and which memory `m'` one engine step of the instance `g` over the memory `m` leads to. -/
inductive EngineMove (p : Params) (m : Memory) (g g' : Engine) (m' : Memory) : Prop where
  /-- VALIDATE, a check fails. -/
  | fail (k : ErrKind) (hp : g.phase = .validating) (hv : validate p g = .fail k) (hg : g' = g.raise k) (hm : m' = m)
  /-- VALIDATE, the call completes at once. -/
  | finish (hp : g.phase = .validating) (hv : validate p g = .finish) (hg : g' = g.finish) (hm : m' = m)
  /-- VALIDATE, entry to the scan. -/
  | enter (hp : g.phase = .validating) (hv : validate p g = .scan) (hf : regionFits p g = true)
      (hr : plainRegion p g.region = true) (hg : g' = g.enterScan (decide (g.mode = tagHigh))) (hm : m' = m)
  /-- BYTE of the scanning command `i`. -/
  | byte (i : Instr) (hd : decode p.encodeExt (g.sel p) = .ok i) (hp : g.phase = .scanning) (hs : scans i = true)
      (ha : portRefusal p g.byteAddr = none) (hg : g' = g.advance (isHigh i))
      (hm : m' = m.write g.byteAddr (byteOut p.tables i g.salt (m.read g.byteAddr)))

/-- The engine part of a next state: the instance `e` replaced and the memory. -/
def State.moved (s : State) (e : Nat) (g : Engine) (m : Memory) : State := { s.setEngine e g with mem := m }

/-- What VALIDATE answers when it answers a next state. -/
theorem validateStep_next {s t : State} {g : Engine} (hp : g.phase = .validating) (h : validateStep s g = .next t) :
    ∃ g', EngineMove s.params s.mem g g' s.mem ∧ t = s.moved s.turn g' s.mem := by
  unfold validateStep at h
  split at h
  · next k hv => cases h; exact ⟨_, .fail k hp hv rfl rfl, rfl⟩
  · next hv => cases h; exact ⟨_, .finish hp hv rfl rfl, rfl⟩
  · next hv =>
    split at h
    · cases h
    · next hf =>
      split at h
      · cases h
      · next hm => cases h; exact ⟨_, .enter hp hv (by simpa using hf) (by simpa using hm) rfl rfl, rfl⟩

/-- VALIDATE never faults. -/
theorem validateStep_ne_fault (s : State) (g : Engine) (f : Fault) : validateStep s g ≠ .fault f := by
  unfold validateStep
  repeat' split
  all_goals simp

/-- What BYTE answers when it answers a next state. -/
theorem byteStep_next {s t : State} {g : Engine} {high : Bool} {out : Byte → Byte} (h : byteStep s g high out = .next t) :
    portRefusal s.params g.byteAddr = none ∧
      t = s.moved s.turn (g.advance high) (s.mem.write g.byteAddr (out (s.mem.read g.byteAddr))) := by
  unfold byteStep at h
  split at h
  · cases h
  · next ha => cases h; exact ⟨ha, rfl⟩

/-- The BYTE part of each command's meaning. -/
def byteOf (i : Instr) (s : State) (g : Engine) : Host.Outcome State Fault Refusal :=
  if scans i then byteStep s g (isHigh i) (byteOut s.params.tables i g.salt) else .refused .noByteStep

/-- The six meanings as one expression over the shared operations. -/
theorem exec_eq (i : Instr) (s : State) :
    exec i s = if i.wellFormed s.params.encodeExt then commandStep s (byteOf i s) else .refused .encodeExtAbsent := by
  cases i <;> rfl

theorem commandStep_of {s : State} {g : Engine} (hg : s.engines[s.turn]? = some g)
    (byte : Engine → Host.Outcome State Fault Refusal) :
    commandStep s byte = match g.phase with
      | .validating => validateStep s g
      | .scanning => byte g
      | _ => .next s := by
  simp only [commandStep, State.current, hg]
  cases g.phase <;> rfl

/-- A busy instance's step, when it answers a next state, is one of the moves. -/
theorem commandStep_next {s t : State} {g : Engine} {byte : Engine → Host.Outcome State Fault Refusal} {i : Instr}
    (hg : s.engines[s.turn]? = some g) (hb : g.busy = true)
    (hbyte : (decode s.params.encodeExt (g.sel s.params) = .ok i ∧ byte g = byteOf i s g) ∨
      byte g = .refused .noByteStep) (h : commandStep s byte = .next t) :
    ∃ g' m, EngineMove s.params s.mem g g' m ∧ t = s.moved s.turn g' m := by
  rw [commandStep_of hg] at h
  cases hp : g.phase with
  | validating =>
    rw [hp] at h
    obtain ⟨g', hm, ht⟩ := validateStep_next hp h
    exact ⟨g', _, hm, ht⟩
  | scanning =>
    simp only [hp] at h
    rcases hbyte with ⟨hd, hbyte⟩ | hbyte <;> rw [hbyte] at h
    · simp only [byteOf] at h
      split at h
      · next hs =>
        obtain ⟨ha, ht⟩ := byteStep_next h
        exact ⟨_, _, .byte i hd hp hs ha rfl rfl, ht⟩
      · cases h
    · cases h
  | idle => simp [Engine.busy, hp, Phase.isBusy] at hb
  | done => simp [Engine.busy, hp, Phase.isBusy] at hb
  | failed => simp [Engine.busy, hp, Phase.isBusy] at hb

end Sys2Proof.Machine
end

