-- ==== Sys2Proof/Laws/Run.lean ====
section
/-! SUPPORT. Runs of turns of one instance: one turn, one byte step in full, and any number of byte steps. -/

namespace Sys2Proof.Machine

theorem run_succ (k : Nat) (s : State) :
    core.run (k + 1) s = match step s with
      | .next t => core.run k t
      | .fault r => .fault r
      | .refused r => .refused r := by
  have h : core.step s = step s := rfl
  revert h
  generalize step s = o
  intro h
  simp only [Host.Core.run]
  rw [h]
  cases o <;> rfl

/-- A scheduled turn of a busy instance is that instance's step. -/
theorem step_turn {s : State} {e : Nat} {g : Engine} {rest : List Event} (hs : s.schedule = .engine e :: rest)
    (hg : s.engines[e]? = some g) (hb : g.busy = true) : step s = busyStep { s with schedule := rest } e g := by
  simp [step, agentsStep, hs, runEvent, engineTurn, hg, hb]

/-- Under WAIT a busy instance takes its step and the schedule stays. -/
theorem step_wait {s : State} {e : Nat} {g : Engine} {rest : List Event} (hs : s.schedule = .wait e :: rest)
    (hg : s.engines[e]? = some g) (hb : g.busy = true) : step s = busyStep s e g := by
  simp [step, agentsStep, hs, runEvent, waitStep, hg, hb]

/-- With nothing scheduled the first busy instance takes its step. -/
theorem step_unscheduled {s : State} {e : Nat} {g : Engine} (hs : s.schedule = [])
    (hf : s.engines.findIdx? (fun h => h.busy) = some e) (hg : s.engines[e]? = some g) (hb : g.busy = true) :
    step s = busyStep s e g := by
  simp [step, agentsStep, hs, State.firstBusy, hf, engineTurn, hg, hb]

/-- Every byte of a plain region is plain. -/
theorem plain_of_region {p : Params} {g : Engine} {a : Nat} (hpl : plainRegion p g.region = true) (hb : g.buf ≠ 0)
    (h1 : g.buf ≤ a) (h2 : a < g.buf + g.len) : plainAddr p a = true := by
  simp only [plainRegion, plainAddr, Bool.not_eq_true', List.any_eq_false] at *
  intro r hr hx
  apply hpl r hr
  simp [regionHas] at hx
  simp [regionsMeet, Engine.region, nullAddr, hb]
  omega

/-- A scheduled turn of a scanning instance, in full (45_host_commands.md R226). -/
theorem step_byte {s : State} {e : Nat} {g : Engine} {i : Instr} {rest : List Event}
    (hs : s.schedule = .engine e :: rest) (hg : s.engines[e]? = some g) (hph : g.phase = .scanning)
    (hd : decode s.params.encodeExt (g.sel s.params) = .ok i) (hi : scans i = true)
    (hb : g.buf ≠ 0) (hidx : g.idx < g.len) (hf : g.buf + g.len ≤ addrSpace s.params)
    (hpl : plainRegion s.params g.region = true) :
    step s = .next { s with
      schedule := rest
      turn := e
      engines := s.engines.set e (g.advance (isHigh i))
      mem := s.mem.write (g.buf + g.idx) (byteOut s.params.tables i g.salt (s.mem.read (g.buf + g.idx))) } := by
  rw [step_turn hs hg (by simp [Engine.busy, hph, Phase.isBusy])]
  have hw := (Engine.decode_sel hd).2.2
  have ha : portRefusal s.params g.byteAddr = none := by
    unfold portRefusal
    rw [if_neg (by simp [Engine.byteAddr]; omega), if_neg]
    rw [plain_of_region hpl hb (by simp [Engine.byteAddr]) (by simp [Engine.byteAddr, hidx])]
    simp
  unfold busyStep
  simp only [hd]
  rw [exec_eq, if_pos (by exact hw), commandStep_of (g := g) (by simpa [State.giveTurn] using hg)]
  simp only [hph, byteOf, hi, if_true]
  unfold byteStep
  simp only [State.giveTurn, ha]
  rfl

/-- `n` turns of a scanning instance with at least `n` bytes to go: what they leave of its registers and of every byte. -/
theorem run_bytes (e : Nat) (i : Instr) (hi : scans i = true) (rest : List Event) :
    ∀ (n : Nat) (s : State) (g : Engine),
      s.schedule = turns e n ++ rest → s.engines[e]? = some g → (n = 0 ∨ g.phase = .scanning) →
      decode s.params.encodeExt (g.sel s.params) = .ok i → g.buf ≠ 0 → g.idx + n ≤ g.len →
      g.buf + g.len ≤ addrSpace s.params → plainRegion s.params g.region = true →
      ∃ t h, core.run n s = .next t ∧ t.schedule = rest ∧ t.params = s.params ∧ t.engines = s.engines.set e h ∧
        h.idx = g.idx + n ∧ h.err = g.err ∧
        h.phase = (if n = 0 then g.phase else if g.idx + n = g.len then .done else .scanning) ∧
        h.count = (if n = 0 then g.count else if g.idx + n = g.len then g.len else g.count) ∧
        ∀ a, t.mem.read a =
          if g.buf + g.idx ≤ a ∧ a < g.buf + g.idx + n then
            byteOut s.params.tables i
              (if isHigh i then g.salt + BitVec.ofNat 16 (a - (g.buf + g.idx)) else g.salt) (s.mem.read a)
          else s.mem.read a := by
  intro n
  induction n with
  | zero =>
    intro s g hs hg hph hd hb hidx hf hpl
    refine ⟨s, g, rfl, by simpa [turns] using hs, rfl, ?_, rfl, rfl, rfl, rfl, ?_⟩
    · obtain ⟨h, rfl⟩ := List.getElem?_eq_some_iff.1 hg
      simp
    · intro a
      rw [if_neg (by omega)]
  | succ n ih =>
    intro s g hs hg hph hd hb hidx hf hpl
    have hph : g.phase = .scanning := by simpa using hph
    have hlt : e < s.engines.length := (List.getElem?_eq_some_iff.1 hg).1
    have hstep := step_byte (rest := turns e n ++ rest) (by simpa [turns, List.replicate_succ] using hs)
      hg hph hd hi hb (by omega) hf hpl
    obtain ⟨t, h, h1, h2, h3, h4, h5, h6, h7, h8, h9⟩ := ih
      { s with
        schedule := turns e n ++ rest
        turn := e
        engines := s.engines.set e (g.advance (isHigh i))
        mem := s.mem.write (g.buf + g.idx) (byteOut s.params.tables i g.salt (s.mem.read (g.buf + g.idx))) }
      (g.advance (isHigh i)) rfl (by simp [hlt])
      (by rw [Engine.advance_phase]; split
          · left; omega
          · right; exact hph)
      (by simpa [Engine.sel, Engine.dirBit] using hd) (by simpa using hb) (by simp; omega) (by simpa using hf)
      (by simpa using hpl)
    refine ⟨t, h, ?_, h2, h3, ?_, ?_, ?_, ?_, ?_, ?_⟩
    · rw [run_succ, hstep]
      exact h1
    · rw [h4]
      simp
    · rw [h5]
      simp
      omega
    · rw [h6]
      simp
    · rw [h7]
      simp only [Engine.advance_phase, Engine.advance_idx, Engine.advance_len, hph]
      rcases n with _ | n
      · simp
      · simp
        split <;> split <;> first | rfl | omega
    · rw [h8]
      simp only [Engine.advance_count, Engine.advance_idx, Engine.advance_len]
      rcases n with _ | n
      · simp
      · have : ¬ g.idx + 1 = g.len := by omega
        simp [this]
        split <;> split <;> first | rfl | omega
    · intro a
      rw [h9 a]
      simp only [Engine.advance_buf, Engine.advance_idx, Engine.advance_salt, Memory.read_write]
      by_cases ha : g.buf + g.idx = a
      · subst ha
        rw [if_neg (by omega), if_pos rfl, if_pos (by omega)]
        simp
      · by_cases hin : g.buf + g.idx ≤ a ∧ a < g.buf + g.idx + (n + 1)
        · rw [if_pos (by omega), if_pos hin, if_neg ha]
          congr 1
          split
          · apply BitVec.eq_of_toNat_eq
            simp [saltAdvance, inc16]
            omega
          · rfl
        · rw [if_neg (by omega), if_neg hin, if_neg ha]

end Sys2Proof.Machine
end

