-- ==== Sys2Proof/Laws/Step.lean ====
section
/-! SUPPORT. What one step of the machine can do, said once: the inversion of `step`. -/

namespace Sys2Proof.Machine

/-- A busy instance that is given the turn makes one of the moves. -/
theorem busyStep_next {s t : State} {e : Nat} {g : Engine} (hg : s.engines[e]? = some g) (hb : g.busy = true)
    (h : busyStep s e g = .next t) :
    ∃ g' m, EngineMove s.params s.mem g g' m ∧ t = (s.giveTurn e).moved e g' m := by
  have hg' : (s.giveTurn e).engines[(s.giveTurn e).turn]? = some g := hg
  unfold busyStep at h
  split at h
  · next i hd =>
    rw [exec_eq] at h
    split at h
    · exact commandStep_next (i := i) hg' hb (.inl ⟨hd, rfl⟩) h
    · cases h
  · exact commandStep_next (i := .decNone) hg' hb (.inr rfl) h

/-- What one step changes in the architecture, the instances and the memory, when `ev` is the scheduled event that is next. The
kinds of step are the agents' (00_scope.md R12) and nothing else. -/
inductive StepKind (ev : Option Event) (s t : State) : Prop where
  /-- A host read, an ignored write, a turn of an instance that is not busy, or waiting. -/
  | quiet (he : t.engines = s.engines) (hm : t.mem = s.mem)
  /-- A host write to MEM. -/
  | memWrite (a : Nat) (v : Byte) (ha : a < addrSpace s.params) (ho : s.owned a = false)
      (he : t.engines = s.engines) (hm : t.mem = s.mem.write a v)
  /-- An accepted write to an operand register. -/
  | operand (e : Nat) (g : Engine) (n v : Nat) (hg : s.engines[e]? = some g) (hb : g.busy = false) (hn : n < 4)
      (he : t.engines = s.engines.set e (g.writeOperand s.params n v)) (hm : t.mem = s.mem)
  /-- An accepted write to CTRL that starts no call. -/
  | direction (e : Nat) (g : Engine) (v : Nat) (hg : s.engines[e]? = some g) (hb : g.busy = false)
      (hv : v.testBit 0 = false) (he : t.engines = s.engines.set e (g.setDir s.params v)) (hm : t.mem = s.mem)
  /-- An accepted START. -/
  | start (e : Nat) (g : Engine) (v : Nat) (hg : s.engines[e]? = some g) (hb : g.busy = false)
      (hv : v.testBit 0 = true) (hw : g.operandsWritten = true) (ho : s.overlapsRunning g = false)
      (hev : ev = some (.regWrite e 4 v)) (he : t.engines = s.engines.set e (g.setDir s.params v).accept) (hm : t.mem = s.mem)
  /-- An engine step. -/
  | engine (e : Nat) (g g' : Engine) (hg : s.engines[e]? = some g) (hb : g.busy = true)
      (hm : EngineMove s.params s.mem g g' t.mem) (he : t.engines = s.engines.set e g')
  /-- Reset. -/
  | reset (hev : ev = some .reset) (he : t.engines = s.engines.map (fun _ => Engine.reset)) (hm : t.mem = s.mem)

theorem regWrite_next {s t : State} {e n v : Nat} (h : regWrite s e n v = .next t) :
    StepKind (some (.regWrite e n v)) s t ∧ t.params = s.params := by
  unfold regWrite at h
  split at h
  · cases h
  · next g hg =>
    split at h
    · cases h
    split at h
    · cases h; exact ⟨.quiet rfl rfl, rfl⟩
    split at h
    · cases h; exact ⟨.quiet rfl rfl, rfl⟩
    next h7 h4 hb =>
    have hb : g.busy = false := by simpa using hb
    split at h
    · next h4 =>
      subst h4
      unfold ctrlWrite at h
      split at h
      · next hv => cases h; exact ⟨.direction e g v hg hb hv rfl rfl, rfl⟩
      · next hv =>
        split at h
        · cases h
        · next hw =>
          split at h
          · cases h
          · next ho =>
            cases h
            exact ⟨.start e g v hg hb (by simpa using hv) (by simpa using hw) (by simpa using ho) rfl rfl rfl, rfl⟩
    · cases h; exact ⟨.operand e g n v hg hb (by omega) rfl rfl, rfl⟩

theorem answerOperand_keeps (s : State) (w : Bool) (k v : Nat) :
    (s.answerOperand w k v).engines = s.engines ∧ (s.answerOperand w k v).mem = s.mem ∧
      (s.answerOperand w k v).params = s.params ∧ (s.answerOperand w k v).schedule = s.schedule := by
  unfold State.answerOperand
  split <;> simp

/-- A host read changes nothing but what the host holds (45_host_commands.md R222). -/
theorem regRead_next {s t : State} {e n : Nat} (h : regRead s e n = .next t) :
    t.engines = s.engines ∧ t.mem = s.mem ∧ t.params = s.params := by
  unfold regRead at h
  split at h
  · cases h
  · split at h <;> cases h <;> first | exact ⟨rfl, rfl, rfl⟩ | skip
    all_goals exact ⟨(answerOperand_keeps ..).1, (answerOperand_keeps ..).2.1, (answerOperand_keeps ..).2.2.1⟩

theorem hostAccess_next {s t u : State} {a : Nat} (h : hostAccess s a u = .next t) :
    a < addrSpace s.params ∧ s.owned a = false ∧ t = u := by
  unfold hostAccess at h
  split at h
  · cases h
  split at h
  · cases h
  split at h
  · cases h
  next h1 h2 _ => cases h; exact ⟨Nat.lt_of_not_le h1, by simpa using h2, rfl⟩

theorem engineTurn_next {s t : State} {e : Nat}
    {ev : Option Event} (h : engineTurn s e = .next t) :
    StepKind ev s t ∧ t.params = s.params := by
  unfold engineTurn at h
  split at h
  · cases h
  · next g hg =>
    split at h
    · next hb =>
      obtain ⟨g', m, hm, rfl⟩ := busyStep_next hg hb h
      exact ⟨.engine e g g' hg hb hm rfl, rfl⟩
    · cases h; exact ⟨.quiet rfl rfl, rfl⟩

/-- The kinds of step do not depend on the schedule, which only says who is next. -/
theorem stepKind_of_schedule {ev : Option Event} {s t : State} {l : List Event}
    (h : StepKind ev { s with schedule := l } t) : StepKind ev s t := by
  cases h with
  | quiet he hm => exact .quiet he hm
  | memWrite a v ha ho he hm => exact .memWrite a v ha ho he hm
  | operand e g n v hg hb hn he hm => exact .operand e g n v hg hb hn he hm
  | direction e g v hg hb hv he hm => exact .direction e g v hg hb hv he hm
  | start e g v hg hb hv hw ho hev he hm => exact .start e g v hg hb hv hw ho hev he hm
  | engine e g g' hg hb hm he => exact .engine e g g' hg hb hm he
  | reset hev he hm => exact .reset hev he hm

theorem waitStep_next {ev : Option Event} {s t : State} {e : Nat} {rest : List Event} (h : waitStep s e rest = .next t) :
    StepKind ev s t ∧ t.params = s.params := by
  unfold waitStep at h
  split at h
  · cases h
  · next g hg =>
    split at h
    · next hb =>
      obtain ⟨g', m, hm, rfl⟩ := busyStep_next hg hb h
      exact ⟨.engine e g g' hg hb hm rfl, rfl⟩
    · split at h <;> cases h <;> exact ⟨.quiet rfl rfl, rfl⟩

theorem runEvent_next {s t : State} {ev : Event} {rest : List Event} (h : runEvent s ev rest = .next t) :
    StepKind (some ev) s t ∧ t.params = s.params := by
  cases ev with
  | regWrite e n v => exact (regWrite_next h).imp stepKind_of_schedule id
  | regRead e n =>
    obtain ⟨he, hm, hp⟩ := regRead_next h
    exact ⟨.quiet he hm, hp⟩
  | wait e => exact waitStep_next h
  | memWrite a v =>
    obtain ⟨ha, ho, rfl⟩ := hostAccess_next h
    exact ⟨.memWrite a v ha ho rfl rfl, rfl⟩
  | memRead a =>
    obtain ⟨-, -, rfl⟩ := hostAccess_next h
    exact ⟨.quiet rfl rfl, rfl⟩
  | engine e => exact (engineTurn_next h).imp stepKind_of_schedule id
  | reset => cases h; exact ⟨.reset rfl rfl rfl, rfl⟩

/-- Every next state is reached by one of the kinds of step, and no step changes the parameters (00_scope.md R13). -/
theorem step_next {s t : State} (h : step s = .next t) : StepKind s.schedule.head? s t ∧ t.params = s.params := by
  unfold step agentsStep at h
  split at h
  · next ev rest hs => rw [hs]; exact runEvent_next h
  · split at h
    · exact engineTurn_next h
    · cases h; exact ⟨.quiet rfl rfl, rfl⟩

end Sys2Proof.Machine
end

