-- ==== Sys2Proof/Laws/Tables.lean ====
section
/-! SUPPORT. The lookup primitive and the inverse tables of a bijective table (40_tables.md R120, R122, R128). -/

namespace Sys2Proof.Machine

theorem lookup_eq_getElem (t : Table) (i : Byte) (h : i.toNat < t.toList.length) : lookup t i = t.toList[i.toNat] := by
  simp [lookup, Vector.get]

theorem table_length (t : Table) : t.toList.length = 256 := Vector.length_toList

theorem mem_of_bijective {t : Table} (h : TableBijective t) (y : Byte) : y ∈ t.toList :=
  List.count_pos_iff.1 (by rw [h y]; exact Nat.one_pos)

/-- `T[inv(T)[y]] = y`. -/
theorem lookup_invLookup {t : Table} (h : TableBijective t) (y : Byte) : lookup t (invLookup t y) = y := by
  have hlt : t.toList.idxOf y < 256 := by
    have := List.idxOf_lt_length_iff.2 (mem_of_bijective h y)
    rwa [table_length] at this
  have hn : (invLookup t y).toNat = t.toList.idxOf y := by
    simp [invLookup, Nat.mod_eq_of_lt hlt]
  rw [lookup_eq_getElem t _ (by rw [hn, table_length]; exact hlt)]
  simp only [hn]
  exact List.getElem_idxOf _

/-- A bijective table gives different bytes at different indices. -/
theorem lookup_injective {t : Table} (h : TableBijective t) : Function.Injective (lookup t) :=
  Finite.injective_iff_surjective.2 fun y => ⟨invLookup t y, lookup_invLookup h y⟩

/-- `inv(T)[T[x]] = x`. -/
theorem invLookup_lookup {t : Table} (h : TableBijective t) (x : Byte) : invLookup t (lookup t x) = x :=
  lookup_injective h (lookup_invLookup h _)

/-- A table that some function undoes is bijective: a cheap way to R120 for given contents. -/
theorem bijective_of_undone {t : Table} {f : Byte → Byte} (h : ∀ x, f (lookup t x) = x) : TableBijective t := by
  have hinj : Function.Injective (lookup t) := Function.LeftInverse.injective h
  intro y
  obtain ⟨x, hx⟩ := Finite.injective_iff_surjective.1 hinj y
  have hl := table_length t
  have hnodup : t.toList.Nodup := by
    rw [List.nodup_iff_injective_get]
    intro a b hab
    have ha : a.val < 256 := lt_of_lt_of_eq a.isLt hl
    have hb : b.val < 256 := lt_of_lt_of_eq b.isLt hl
    have key : lookup t (BitVec.ofNat 8 a) = lookup t (BitVec.ofNat 8 b) := by
      rw [lookup_eq_getElem t _ (by simp [hl]; omega), lookup_eq_getElem t _ (by simp [hl]; omega)]
      simpa [Nat.mod_eq_of_lt ha, Nat.mod_eq_of_lt hb] using hab
    have := congrArg BitVec.toNat (hinj key)
    simp only [BitVec.toNat_ofNat] at this
    exact Fin.ext (by omega)
  refine List.count_eq_one_of_mem hnodup ?_
  have hlt : x.toNat < t.toList.length := by rw [hl]; exact x.isLt
  exact hx ▸ lookup_eq_getElem t x hlt ▸ List.getElem_mem hlt

/-- That `u` undoes `t`, from one pass over the entries of `t`: what the kernel evaluates cheaply for given contents. -/
theorem undone_of_list {t u : Table}
    (h : t.toList.map (fun b => (u.toList[b.toNat]?).map BitVec.toNat) = (List.range 256).map some) (x : Byte) :
    lookup u (lookup t x) = x := by
  have ht : x.toNat < t.toList.length := by rw [table_length]; exact x.isLt
  have hu : (lookup t x).toNat < u.toList.length := by rw [table_length]; exact (lookup t x).isLt
  have key := congrArg (fun l => l[x.toNat]?) h
  simp only [List.getElem?_map, List.getElem?_eq_getElem ht, Option.map_some] at key
  rw [← lookup_eq_getElem t x ht, List.getElem?_eq_getElem hu, ← lookup_eq_getElem u _ hu,
    List.getElem?_eq_getElem (by simpa using x.isLt)] at key
  exact BitVec.eq_of_toNat_eq (by simpa using key)

/-- Two tables of which one undoes the other are both bijective. -/
theorem bijective_of_inverse {t u : Table} (h : ∀ x, lookup u (lookup t x) = x) : TableBijective t ∧ TableBijective u := by
  have ht := bijective_of_undone h
  refine ⟨ht, bijective_of_undone (f := lookup t) fun y => ?_⟩
  rw [← lookup_invLookup ht y, h]

@[simp] theorem add8_sub8 (a b : Byte) : add8 (sub8 a b) b = a := by simp [add8, sub8]

@[simp] theorem sub8_add8 (a b : Byte) : sub8 (add8 a b) b = a := by simp [add8, sub8]

end Sys2Proof.Machine
end

