-- ==== Sys2Proof/Laws/Validate.lean ====
section
/-! SUPPORT. What each verdict of the validation phase says of the operands (41_mode_validator.md R141). -/

namespace Sys2Proof.Machine

/-- The legal tags in numbers (R140). -/
theorem validateTag_iff (tag : Byte) : validateTag tag = true ↔ tag.toNat ≤ 2 := by
  revert tag; decide +kernel

/-- The tag of a command is legal. -/
theorem validateTag_of_command (i : Instr) : validateTag i.tag = true := by cases i <;> decide

theorem validate_finish_iff (p : Params) (g : Engine) :
    validate p g = .finish ↔ validateTag g.mode = true ∧ (g.len = 0 ∨ g.buf ≠ nullAddr) ∧ g.len ≤ maxLen p ∧
      (g.mode = tagNone ∨ g.len = 0) := by
  unfold validate
  constructor
  · intro h
    repeat' (split at h)
    all_goals simp_all
    omega
  · rintro ⟨h1, h2, h3, h4⟩
    rw [if_neg (by simp [h1]), if_neg (by omega), if_neg (by omega), if_pos h4]

theorem validate_scan_iff (p : Params) (g : Engine) :
    validate p g = .scan ↔ validateTag g.mode = true ∧ 0 < g.len ∧ g.buf ≠ nullAddr ∧ g.len ≤ maxLen p ∧
      g.mode ≠ tagNone := by
  unfold validate
  constructor
  · intro h
    repeat' (split at h)
    all_goals simp_all
    omega
  · rintro ⟨h1, h2, h3, h4, h5⟩
    rw [if_neg (by simp [h1]), if_neg (by omega), if_neg (by omega), if_neg (by simp [h5]; omega)]

/-- A failing check has a kind and its cause. -/
theorem validate_fail {p : Params} {g : Engine} {k : ErrKind} (h : validate p g = .fail k) :
    (k = .unsupportedMode ∧ validateTag g.mode = false) ∨
    (k = .invalidBuffer ∧ 0 < g.len ∧ g.buf = nullAddr) ∨ (k = .lengthOverflow ∧ maxLen p < g.len) := by
  unfold validate at h
  repeat' (split at h)
  all_goals simp_all

end Sys2Proof.Machine
end

