-- ==== Sys2Proof/Tests/Slice0.lean ====
section
/-! SUPPORT. Tests of single steps against the vectors of 95_test_vectors.md, the smoke test of WellFormed, the decoding of every
row's word, and for every obligation with hypotheses a state that meets them. -/

namespace Sys2Proof.Tests

open Machine

section Helpers

/-- An instance with given operands and phase, all operands written, nothing left in the other registers. -/
def eng (mode : Byte) (key : Key) (buf len : Nat) (dir : Bool) (phase : Phase) : Engine where
  mode := mode
  key := key
  buf := buf
  len := len
  dir := dir
  phase := phase
  count := 0
  err := .noError
  salt := 0#16
  idx := 0
  written := { mode := true, key := true, buf := true, len := true }

/-- The default parameters (00_scope.md R6) with ENCODE_EXT as given. -/
def par (ext : Bool) : Params := { defaultParams with encodeExt := ext }

/-- A machine at the default parameters, instance 0 having the turn. -/
def mach (ext : Bool) (gs : List Engine) (mem : Memory) (schedule : List Event) : State where
  params := par ext
  engines := gs
  mem := mem
  schedule := schedule
  turn := 0
  hostData := 0
  fresh := 0

/-- The outcome is a next state of which `f` holds. -/
def next (o : Host.Outcome State Fault Refusal) (f : State → Bool) : Bool :=
  match o with
  | .next t => f t
  | .fault _ => false
  | .refused _ => false

/-- The refusal an outcome is, if it is one. -/
def refusal (o : Host.Outcome State Fault Refusal) : Option Refusal :=
  match o with
  | .next _ => none
  | .fault _ => none
  | .refused r => some r

theorem exists_next {o : Host.Outcome State Fault Refusal} (h : next o (fun _ => true) = true) : ∃ t, o = .next t := by
  cases o with
  | next t => exact ⟨t, rfl⟩
  | fault _ => cases h
  | refused _ => cases h

/-- A High call at its first byte with salt 0xFFFF (V-G4). -/
def high0 : Engine := { eng 0x02#8 0x0000FFFF#32 0x1000 3 false .scanning with salt := 0xFFFF#16 }

/-- A High call at the last byte of V-G5's buffer. -/
def high2 : Engine := { eng 0x02#8 0xDEADBEEF#32 0x1000 3 false .scanning with salt := 0x6044#16, idx := 2 }

/-- The same under START.ENC (V-E7). -/
def encHigh2 : Engine := { high2 with dir := true }

/-- A Compressible call at the one byte at the top of the address space. -/
def compTop : Engine := eng 0x01#8 0#32 0xFFFFFFFF 1 false .scanning

/-- The same under START.ENC. -/
def encCompTop : Engine := { compTop with dir := true }

end Helpers

section Commands

/-- A well-formed command is one the engine has (44_transform_encode.md R206). -/
theorem test_wellFormed_refuses_encode_without_extension :
    Instr.wellFormed false .encNone = false ∧ Instr.wellFormed false .encComp = false ∧
      Instr.wellFormed false .encHigh = false ∧ Instr.wellFormed false .decHigh = true ∧
      Instr.wellFormed true .encHigh = true := by decide

/-- The column "encoding" of 30_encoding.md R93, bit by bit. -/
theorem test_decode_decNone : decode false 0b000000000#9 = .ok .decNone := by decide

theorem test_decode_decComp : decode false 0b000000001#9 = .ok .decComp := by decide

theorem test_decode_decHigh : decode false 0b000000010#9 = .ok .decHigh := by decide

theorem test_decode_encNone : decode true 0b100000000#9 = .ok .encNone := by decide

theorem test_decode_encComp : decode true 0b100000001#9 = .ok .encComp := by decide

theorem test_decode_encHigh : decode true 0b100000010#9 = .ok .encHigh := by decide

/-- 30_encoding.md R94: tags 0x03 and 0xFF are illegal in both directions; R206: no encode command without ENCODE_EXT. -/
theorem test_decode_rejects :
    decode true 0b000000011#9 = .error .illegalTag ∧ decode true 0b011111111#9 = .error .illegalTag ∧
      decode true 0b100000011#9 = .error .illegalTag ∧ decode true 0b111111111#9 = .error .illegalTag ∧
      decode false 0b100000000#9 = .error .encodeAbsent := by decide

theorem test_encode_words :
    encode .decNone = 0x000#9 ∧ encode .decComp = 0x001#9 ∧ encode .decHigh = 0x002#9 ∧ encode .encNone = 0x100#9 ∧
      encode .encComp = 0x101#9 ∧ encode .encHigh = 0x102#9 := by decide

/-- The first step after reset runs the placed command: with the operands zero it is V-V3. -/
theorem test_withFetchWord_runs :
    next (step (State.reset.withFetchWord 16 0x002)) (fun t => t.engines.map (fun g => (g.phase, g.count, g.err)) ==
      [(.done, 0, .noError)]) = true := by decide +kernel

end Commands

section Vectors

/-- V-V15: LEN = MAX_LEN passes in the None mode. -/
theorem test_decNone_maxLen :
    next (exec .decNone (mach false [eng 0x00#8 0#32 1 0x7FFFFFFF false .validating] [] [])) (fun t =>
      t.engines == [{ eng 0x00#8 0#32 1 0x7FFFFFFF false .done with count := 0x7FFFFFFF }] && t.mem == []) = true := by
  decide +kernel

/-- V-V9: a null buffer fails in the None mode too. -/
theorem test_decNone_null :
    next (exec .decNone (mach false [eng 0x00#8 0#32 0 1 false .validating] [] [])) (fun t =>
      t.engines == [{ eng 0x00#8 0#32 0 1 false .failed with err := .invalidBuffer }]) = true := by decide +kernel

/-- V-V16: entry to the scan, SALT not written. -/
theorem test_decComp_enters :
    next (exec .decComp (mach false [eng 0x01#8 0xDEADBEEF#32 0x1000 1 false .validating] [] [])) (fun t =>
      t.engines == [eng 0x01#8 0xDEADBEEF#32 0x1000 1 false .scanning]) = true := by decide +kernel

/-- V-G2, its last byte, at the top of the address space. -/
theorem test_decComp_byte :
    next (exec .decComp (mach false [compTop] [(0xFFFFFFFF, 0xFF#8)] [])) (fun t =>
      t.mem == [(0xFFFFFFFF, 0xEC#8)] &&
        t.engines == [{ eng 0x01#8 0#32 0xFFFFFFFF 1 false .done with idx := 1, count := 1 }]) = true := by decide +kernel

/-- V-V17: SALT = 0x6042 on entry with KEY 0xDEADBEEF. -/
theorem test_decHigh_enters :
    next (exec .decHigh (mach false [eng 0x02#8 0xDEADBEEF#32 0x1000 1 false .validating] [] [])) (fun t =>
      t.engines == [{ eng 0x02#8 0xDEADBEEF#32 0x1000 1 false .scanning with salt := 0x6042#16 }]) = true := by
  decide +kernel

/-- V-G4, byte 0: every wrap at once, and the salt goes from 0xFFFF to 0. -/
theorem test_decHigh_wraps :
    next (exec .decHigh (mach false [high0] [] [])) (fun t =>
      t.mem == [(0x1000, 0x17#8)] && t.engines == [{ high0 with salt := 0#16, idx := 1 }]) = true := by decide +kernel

/-- V-G5, byte by byte through the datapath. -/
theorem test_highByte :
    highByte defaultTables 0x42#8 0x60#8 0x01#8 = 0x76#8 ∧ highByte defaultTables 0x43#8 0x60#8 0x02#8 = 0x59#8 ∧
      highByte defaultTables 0x44#8 0x60#8 0x03#8 = 0x09#8 := by decide +kernel

/-- V-V13 started with START.ENC: the smallest length that is too long. -/
theorem test_encNone_overflow :
    next (exec .encNone (mach true [eng 0x00#8 0#32 0x1000 0x80000000 true .validating] [] [])) (fun t =>
      t.engines == [{ eng 0x00#8 0#32 0x1000 0x80000000 true .failed with err := .lengthOverflow }]) = true := by
  decide +kernel

/-- V-E1: the None mode leaves the buffer alone. -/
theorem test_encNone_identity :
    next (exec .encNone (mach true [eng 0x00#8 0x12345678#32 0x1000 3 true .validating] [(0x1000, 0x01#8)] [])) (fun t =>
      t.engines == [{ eng 0x00#8 0x12345678#32 0x1000 3 true .done with count := 3 }] &&
        t.mem == [(0x1000, 0x01#8)]) = true := by decide +kernel

/-- V-E5, its last byte. -/
theorem test_encComp_byte :
    next (exec .encComp (mach true [encCompTop] [(0xFFFFFFFF, 0xFF#8)] [])) (fun t =>
      t.mem == [(0xFFFFFFFF, 0x3D#8)]) = true := by decide +kernel

/-- V-E7, its last byte: the call ends with COUNT = 3. -/
theorem test_encHigh_byte :
    next (exec .encHigh (mach true [encHigh2] [(0x1002, 0x09#8)] [])) (fun t =>
      t.mem == [(0x1002, 0x03#8)] &&
        t.engines == [{ encHigh2 with salt := 0x6045#16, idx := 3, count := 3, phase := .done }]) = true := by
  decide +kernel

/-- V-V7, V-V8, V-V11: the first failing check decides. -/
theorem test_validate_order :
    validate defaultParams (eng 0x07#8 0#32 0 0 false .validating) = .fail .unsupportedMode ∧
      validate defaultParams (eng 0x80#8 0#32 0 0x80000000 false .validating) = .fail .unsupportedMode ∧
      validate defaultParams (eng 0x02#8 0#32 0 0x80000000 false .validating) = .fail .invalidBuffer := by decide

/-- V-K8, V-K9, V-K12. -/
theorem test_saltInit :
    saltInit 0xDEADBEEF#32 = 0x6042#16 ∧ saltInit 0x12345678#32 = 0x444C#16 ∧ saltInit 0x80000000#32 = 0x8000#16 := by
  decide

/-- V-A5, V-A8. -/
theorem test_saltSplitAdvance :
    saltLower 0x6042#16 = 0x42#8 ∧ saltUpper 0x6042#16 = 0x60#8 ∧ saltAdvance 0xFFFF#16 = 0#16 := by decide

/-- V-C1, V-C4. -/
theorem test_saltAt : saltAt 0xDEADBEEF#32 2 = 0x6044#16 ∧ saltAt 0x12345678#32 65536 = 0x444C#16 := by decide

end Vectors

section HostOperations

/-- Program 5, operation 4: a write to LEN while busy is ignored. -/
theorem test_regWrite_busy :
    next (step (mach false [high0] [] [.regWrite 0 3 1])) (fun t => t.engines == [high0] && t.schedule == []) = true := by
  decide +kernel

/-- Program 6, operation 3: CTRL reads 2 after START.ENC. -/
theorem test_regRead_ctrl :
    next (step (mach true [encCompTop] [] [.regRead 0 4])) (fun t => t.hostData == 2) = true := by decide +kernel

/-- Program 4, its register writes. -/
theorem test_hostCall :
    hostCall 0 .decHigh 0x0000FFFF#32 0x1000 3 =
      [.regWrite 0 0 0x02, .regWrite 0 1 0x0000FFFF, .regWrite 0 2 0x1000, .regWrite 0 3 3, .regWrite 0 4 1, .wait 0] := by
  decide

/-- 10_state.md R39: a START right after reset is refused. -/
theorem test_start_after_reset :
    refusal (step { State.reset with schedule := [.regWrite 0 4 1] }) = some .operandNeverWritten := by decide +kernel

/-- A write of the value an unlisted byte reads as removes the entry, and rising order is kept. -/
theorem test_memory_canonical :
    Memory.write [(1, 0x05#8)] 1 0x00#8 = [] ∧ Memory.write [(1, 0x05#8), (3, 0x06#8)] 2 0x07#8 =
      [(1, 0x05#8), (2, 0x07#8), (3, 0x06#8)] := by decide

end HostOperations

section Invariant

/-- The default tables are legal (40_tables.md R120, R123). -/
theorem defaultTables_legal : TablesLegal defaultTables := by
  have h : ∀ x, lookup defaultTables.comp (lookup defaultTables.high1 x) = x := undone_of_list (by decide +kernel)
  have h2 : ∀ x, lookup defaultTables.high2 (lookup defaultTables.high2 x) = x := undone_of_list (by decide +kernel)
  refine ⟨(bijective_of_inverse h).1, (bijective_of_inverse h2).1, (bijective_of_inverse h).2, ?_⟩
  unfold TablesSourceEntries
  decide +kernel

theorem par_legal (ext : Bool) : ParamsLegal (par ext) := ⟨by cases ext <;> decide, defaultTables_legal⟩

/-- The invariant of a small machine, from its parts. -/
theorem mach_inv {ext : Bool} {gs : List Engine} {mem : Memory} {schedule : List Event} (hne : gs ≠ [])
    (hg : ∀ g ∈ gs, EngineInv (par ext) g)
    (hd : gs.Pairwise (fun g h => regionsMeet g.region h.region = false)) (hw : mem.wf = true)
    (hm : ∀ c ∈ mem, c.1 < 2 ^ 32) : StateInv (mach ext gs mem schedule) := by
  refine ⟨par_legal ext, hne, hg, ?_, hw, hm⟩
  intro e f g h he hf hef _ _
  obtain ⟨h1, rfl⟩ := List.getElem?_eq_some_iff.1 he
  obtain ⟨h2, rfl⟩ := List.getElem?_eq_some_iff.1 hf
  have key := List.pairwise_iff_getElem.1 hd
  rcases Nat.lt_or_gt_of_ne hef with hlt | hlt
  · exact key e f h1 h2 hlt
  · have := key f e h2 h1 hlt
    simp only [regionsMeet, Bool.and_eq_false_iff, decide_eq_false_iff_not] at this ⊢
    tauto

/-- A High call about to be validated. -/
def valHigh : Engine := eng 0x02#8 0x0000FFFF#32 0x1000 3 false .validating

/-- An instance whose call has failed. -/
def failed : Engine := { eng 0x03#8 0#32 0x5000 4 false .failed with err := .unsupportedMode }

/-- An instance that waits for a call, its operands written. -/
def idle : Engine := eng 0x01#8 0#32 0x6000 5 false .idle

theorem valHigh_inv : EngineInv (par false) valHigh := by constructor <;> decide

theorem high0_inv : EngineInv (par false) high0 := by constructor <;> decide

theorem high2_inv : EngineInv (par false) high2 := by constructor <;> decide

theorem compTop_inv : EngineInv (par false) compTop := by constructor <;> decide

theorem encCompTop_inv : EngineInv (par true) encCompTop := by constructor <;> decide

theorem failed_inv : EngineInv (par false) failed := by constructor <;> decide

theorem idle_inv : EngineInv (par false) idle := by constructor <;> decide

theorem one_inv {ext : Bool} {g : Engine} (hg : EngineInv (par ext) g) (schedule : List Event) :
    StateInv (mach ext [g] [] schedule) :=
  mach_inv (by simp) (by simpa using hg) (by simp) rfl (by simp)

/-- Two running calls and a failed one on disjoint regions. -/
theorem three_inv (schedule : List Event) : StateInv (mach false [high0, compTop, failed] [(0x2000, 0x5A#8)] schedule) := by
  refine mach_inv (by simp) ?_ (by decide) (by decide) (by decide)
  intro g hg
  simp only [List.mem_cons, List.not_mem_nil, or_false] at hg
  rcases hg with rfl | rfl | rfl
  · exact high0_inv
  · exact compTop_inv
  · exact failed_inv

end Invariant

section EncodingWitnesses

theorem witness_OpcodeMap :
    (∀ p ∈ [(false, 0x003#9), (false, 0x0FF#9), (true, 0x103#9), (true, 0x1FF#9)],
      2 < (selMode p.2).toNat ∧ (p.2.getLsbD 8 = false ∨ p.1 = true)) ∧ (par false).encodeExt = false := by decide +kernel

theorem witness_SelectorBytesRoundTrip :
    Instr.wellFormed true .encHigh = true ∧ Instr.wellFormed false .decHigh = true := by decide

/-- At the largest values of BUF and LEN, and with an encode command. -/
theorem witness_CallProgramsItsCommand :
    let s := mach true [eng 0x01#8 0#32 0x6000 5 false .idle] [] (hostCall 0 .encHigh 0xFFFFFFFF#32 0xFFFFFFFF 0xFFFFFFFF ++ [])
    let g := eng 0x01#8 0#32 0x6000 5 false .idle
    s.engines[0]? = some g ∧ g.busy = false ∧ Instr.wellFormed s.params.encodeExt .encHigh = true ∧
      0xFFFFFFFF < 2 ^ s.params.aw ∧ s.overlapsRunning { g with buf := 0xFFFFFFFF, len := 0xFFFFFFFF } = false ∧
      s.schedule = hostCall 0 .encHigh 0xFFFFFFFF#32 0xFFFFFFFF 0xFFFFFFFF ++ [] := by decide

end EncodingWitnesses

section SteppingWitnesses

/-- One witness for each of the three ways to be given the turn. -/
theorem witness_StepRunsDecoded :
    (mach false [idle, high0] [] [.engine 1]).engines[1]? = some high0 ∧ high0.busy = true ∧
      decode (par false).encodeExt (high0.sel (par false)) = .ok .decHigh ∧
      (mach false [idle, high0] [] [.engine 1]).schedule = .engine 1 :: [] ∧
      (mach false [idle, high0] [] [.wait 1]).schedule = .wait 1 :: [] ∧
      (mach false [idle, high0] [] []).schedule = [] ∧
      (mach false [idle, high0] [] []).engines.findIdx? (fun h => h.busy) = some 1 := by decide

/-- At the smallest and the largest illegal tag, in each of the three ways to be given the turn. -/
theorem witness_IllegalTagFails :
    ∀ m ∈ [0x03#8, 0xFF#8], ∀ l ∈ [[Event.engine 0], [.wait 0], []],
      (mach false [eng m 0#32 0 0 false .validating] [] l).engines[0]? = some (eng m 0#32 0 0 false .validating) ∧
      (eng m 0#32 0 0 false .validating).phase = .validating ∧ 2 < m.toNat ∧
      (mach false [eng m 0#32 0 0 false .validating] [] l).schedule = l ∧
      (mach false [eng m 0#32 0 0 false .validating] [] l).engines.findIdx? (fun h => h.busy) = some 0 := by decide

theorem witness_NoStepWhenNotBusy :
    (mach false [failed] [] [.engine 0]).engines[0]? = some failed ∧ failed.busy = false ∧
      (mach false [failed] [] [.engine 0]).schedule = .engine 0 :: [] ∧
      (mach false [failed, idle] [] []).schedule = [] ∧ ∀ g ∈ (mach false [failed, idle] [] []).engines, g.busy = false := by
  decide

end SteppingWitnesses

section ValidationWitnesses

/-- For each of the six commands: None at LEN = MAX_LEN, the others at LEN = 0 with a null BUF. -/
theorem witness_ImmediateCompletion :
    ∀ c ∈ [(Instr.decNone, eng 0x00#8 0#32 1 0x7FFFFFFF false .validating), (.decComp, eng 0x01#8 0#32 0 0 false .validating),
        (.decHigh, eng 0x02#8 0#32 0 0 false .validating), (.encNone, eng 0x00#8 0#32 1 0x7FFFFFFF true .validating),
        (.encComp, eng 0x01#8 0#32 0 0 true .validating), (.encHigh, eng 0x02#8 0#32 0 0 true .validating)],
      Selected (mach true [c.2] [] []) c.1 c.2 ∧ c.2.phase = .validating ∧ (c.2.len = 0 ∨ c.2.buf ≠ 0) ∧
        c.2.len ≤ 2 ^ ((par true).aw - 1) - 1 ∧ (c.2.mode = 0x00#8 ∨ c.2.len = 0) := by
  unfold Selected
  decide

/-- At LEN = 1, at the largest LEN, and at LEN = 0. -/
theorem witness_NullBufferFails :
    (∀ n ∈ [1, 0xFFFFFFFF], Selected (mach false [eng 0x00#8 0#32 0 n false .validating] [] []) .decNone
      (eng 0x00#8 0#32 0 n false .validating) ∧ 0 < n) ∧
    Selected (mach false [eng 0x02#8 0#32 0 0 false .validating] [] []) .decHigh (eng 0x02#8 0#32 0 0 false .validating) := by
  unfold Selected
  decide

/-- At MAX_LEN + 1 and at the largest LEN; at AW = 17; at LEN = MAX_LEN. -/
theorem witness_LengthOverflowFails :
    (∀ n ∈ [0x80000000, 0xFFFFFFFF], Selected (mach false [eng 0x01#8 0#32 0x1000 n false .validating] [] []) .decComp
      (eng 0x01#8 0#32 0x1000 n false .validating) ∧ 0x1000 ≠ 0 ∧ 2 ^ ((par false).aw - 1) - 1 < n) ∧
    (17 ≤ ({ par false with aw := 17 } : Params).aw ∧ 0x1FFFF < 2 ^ ({ par false with aw := 17 } : Params).aw) ∧
    (eng 0x01#8 0#32 0x1000 0x7FFFFFFF false .validating).len = maxLen (par false) := by
  unfold Selected
  decide

/-- For each of the four scanning commands: a region that ends at the top of the address space, and LEN = MAX_LEN. -/
theorem witness_ScanEntry :
    ∀ c ∈ [(Instr.decComp, eng 0x01#8 0#32 0xFFFFFFFD 3 false .validating), (.decHigh, eng 0x02#8 0#32 1 0x7FFFFFFF false .validating),
        (.encComp, eng 0x01#8 0#32 0xFFFFFFFF 1 true .validating), (.encHigh, eng 0x02#8 0#32 0x1000 3 true .validating)],
      Selected (mach true [c.2] [] []) c.1 c.2 ∧ c.2.phase = .validating ∧ scans c.1 = true ∧ 0 < c.2.len ∧ c.2.buf ≠ 0 ∧
        c.2.len ≤ 2 ^ ((par true).aw - 1) - 1 ∧ c.2.buf + c.2.len ≤ 2 ^ (par true).aw ∧
        plainRegion (par true) c.2.region = true := by
  unfold Selected
  decide

/-- One operand setting for each row of the table, at the values where rows meet. -/
theorem witness_ValidationTruthTable :
    2 < (eng 0x03#8 0#32 0 0 false .validating).mode.toNat ∧
    ((eng 0x02#8 0#32 0 0 false .validating).mode.toNat ≤ 2 ∧ (eng 0x02#8 0#32 0 0 false .validating).len = 0) ∧
    ((eng 0x02#8 0#32 0 1 false .validating).mode.toNat ≤ 2 ∧ 0 < (eng 0x02#8 0#32 0 1 false .validating).len ∧
      (eng 0x02#8 0#32 0 1 false .validating).buf = 0) ∧
    ((eng 0x02#8 0#32 1 0x80000000 false .validating).buf ≠ 0 ∧
      maxLen (par false) < (eng 0x02#8 0#32 1 0x80000000 false .validating).len) ∧
    ((eng 0x02#8 0#32 1 0x7FFFFFFF false .validating).buf ≠ 0 ∧
      (eng 0x02#8 0#32 1 0x7FFFFFFF false .validating).len ≤ maxLen (par false)) := by decide

theorem witness_ValidationAllOrNothing :
    (mach false [valHigh] [] []).engines[(mach false [valHigh] [] []).turn]? = some valHigh ∧ valHigh.phase = .validating ∧
      ∃ t, exec .decHigh (mach false [valHigh] [] []) = .next t :=
  ⟨rfl, rfl, exists_next (by decide +kernel)⟩

/-- BUF + LEN = 2^AW + 1; and calls that make no access: None on the same region, and LEN = 0, a null BUF and LEN > MAX_LEN. -/
theorem witness_WrappingRegionRefused :
    (Selected (mach false [eng 0x01#8 0#32 0xFFFFFFFF 2 false .validating] [] []) .decComp
        (eng 0x01#8 0#32 0xFFFFFFFF 2 false .validating) ∧ scans .decComp = true ∧ 2 ≤ maxLen (par false) ∧
      2 ^ (par false).aw < 0xFFFFFFFF + 2) ∧
    Selected (mach false [eng 0x00#8 0#32 0xFFFFFFFF 2 false .validating] [] []) .decNone
        (eng 0x00#8 0#32 0xFFFFFFFF 2 false .validating) ∧ scans .decNone = false ∧
    ∀ g ∈ [eng 0x01#8 0#32 0xFFFFFFFF 0 false .validating, eng 0x01#8 0#32 0 0xFFFFFFFF false .validating,
        eng 0x01#8 0#32 0x1000 0xFFFFFFFF false .validating],
      Selected (mach false [g] [] []) .decComp g ∧ g.phase = .validating ∧
        (g.len = 0 ∨ g.buf = 0 ∨ maxLen (par false) < g.len) := by
  unfold Selected
  decide

/-- The last byte of the buffer is the only byte that is not plain. -/
theorem witness_UnbackedRegionRefused :
    let s := { mach false [valHigh] [] [] with params := { par false with unbacked := [{ base := 0x1002, size := 1 }] } }
    Selected s .decHigh valHigh ∧ valHigh.phase = .validating ∧ scans .decHigh = true ∧ valHigh.buf ≠ 0 ∧
      valHigh.len ≤ maxLen s.params ∧ valHigh.buf + valHigh.len ≤ 2 ^ s.params.aw ∧
      { base := 0x1002, size := 1 } ∈ s.params.unbacked ∧ 0x1002 ≤ 0x1002 ∧ 0x1002 < 0x1002 + 1 ∧ valHigh.buf ≤ 0x1002 ∧
      0x1002 < valHigh.buf + valHigh.len := by
  unfold Selected
  decide

end ValidationWitnesses

section ByteStepWitnesses

/-- At the top of the address space. -/
theorem witness_DecCompByte :
    (mach false [compTop] [] []).engines[(mach false [compTop] [] []).turn]? = some compTop ∧ compTop.phase = .scanning ∧
      compTop.buf + compTop.idx < 2 ^ (par false).aw ∧ plainAddr (par false) (compTop.buf + compTop.idx) = true := by decide

/-- At the salt that wraps, and at the last byte of a call. -/
theorem witness_DecHighByte :
    ∀ c ∈ [(high0, 0xFF#8, 0xFF#8), (high2, 0x44#8, 0x60#8)],
      (mach false [c.1] [] []).engines[(mach false [c.1] [] []).turn]? = some c.1 ∧ c.1.phase = .scanning ∧
      c.1.buf + c.1.idx < 2 ^ (par false).aw ∧ plainAddr (par false) (c.1.buf + c.1.idx) = true ∧
      c.2.1.toNat = c.1.salt.toNat % 256 ∧ c.2.2.toNat = c.1.salt.toNat / 256 := by decide

theorem witness_EncCompByte :
    (par true).encodeExt = true ∧ TablesLegal (par true).tables ∧
      (mach true [encCompTop] [] []).engines[(mach true [encCompTop] [] []).turn]? = some encCompTop ∧
      encCompTop.phase = .scanning ∧ encCompTop.buf + encCompTop.idx < 2 ^ (par true).aw ∧
      plainAddr (par true) (encCompTop.buf + encCompTop.idx) = true :=
  ⟨rfl, defaultTables_legal, by decide⟩

theorem witness_EncHighByte :
    (par true).encodeExt = true ∧ TablesLegal (par true).tables ∧
      (mach true [encHigh2] [] []).engines[(mach true [encHigh2] [] []).turn]? = some encHigh2 ∧
      encHigh2.phase = .scanning ∧ encHigh2.buf + encHigh2.idx < 2 ^ (par true).aw ∧
      plainAddr (par true) (encHigh2.buf + encHigh2.idx) = true ∧ (0x44#8).toNat = encHigh2.salt.toNat % 256 ∧
      (0x60#8).toNat = encHigh2.salt.toNat / 256 :=
  ⟨rfl, defaultTables_legal, by decide⟩

/-- A byte step, a VALIDATE step, and an instance that is not busy. -/
theorem witness_CommandFrame :
    (∃ t, exec .decHigh (mach false [high2] [] []) = .next t) ∧ (∃ t, exec .decHigh (mach false [valHigh] [] []) = .next t) ∧
      (∃ t, exec .decComp (mach false [failed] [] []) = .next t) ∧ failed.busy = false ∧
      ∃ t, exec .encComp (mach true [encCompTop] [] []) = .next t :=
  ⟨exists_next (by decide +kernel), exists_next (by decide +kernel), exists_next (by decide +kernel), rfl,
    exists_next (by decide +kernel)⟩

end ByteStepWitnesses

section TableAndSaltWitnesses

/-- A key of the same fold in the High mode; any key in the Compressible mode. -/
theorem witness_OnlyTheFoldOfTheKeyCounts :
    (valHigh.mode = 0x02#8 ∧ saltInit 0xFFFF0000#32 = saltInit valHigh.key ∧
      ∃ t, exec .decHigh (mach false [valHigh] [] []) = .next t) ∧
    compTop.mode ≠ 0x02#8 ∧ ∃ t, exec .decComp (mach false [compTop] [] []) = .next t :=
  ⟨⟨rfl, by decide, exists_next (by decide +kernel)⟩, by decide, exists_next (by decide +kernel)⟩

theorem witness_InverseTables : TableBijective defaultTables.comp := defaultTables_legal.2.2.1

theorem witness_ByteMapsAreBijections : TablesLegal defaultTables := defaultTables_legal

theorem witness_EncodeDecodeRoundTrip :
    TablesLegal defaultTables ∧ Instr.dir .decHigh = false ∧ Instr.dir .encHigh = true ∧ Instr.tag .decHigh = Instr.tag .encHigh :=
  ⟨defaultTables_legal, by decide⟩

theorem witness_SourceVectorsForEveryTables : TablesLegal defaultTables := defaultTables_legal

end TableAndSaltWitnesses

section WholeCallWitnesses

/-- A scanning call, and a None call at LEN = MAX_LEN. -/
theorem witness_WholeCall :
    (StateInv (mach false [valHigh] [] (turns 0 4)) ∧ (mach false [valHigh] [] (turns 0 4)).engines[0]? = some valHigh ∧
      valHigh.phase = .validating ∧ decode (par false).encodeExt (valHigh.sel (par false)) = .ok .decHigh ∧ valHigh.buf ≠ 0 ∧
      valHigh.len ≤ maxLen (par false) ∧ valHigh.buf + valHigh.len ≤ 2 ^ (par false).aw ∧
      plainRegion (par false) valHigh.region = true ∧
      (mach false [valHigh] [] (turns 0 4)).schedule = turns 0 (callSteps .decHigh valHigh.len) ++ []) ∧
    scans .decNone = false ∧ EngineInv (par false) (eng 0x00#8 0#32 1 0x7FFFFFFF false .validating) ∧
      decode (par false).encodeExt ((eng 0x00#8 0#32 1 0x7FFFFFFF false .validating).sel (par false)) = .ok .decNone :=
  ⟨⟨one_inv valHigh_inv _, by decide⟩, by decide, by constructor <;> decide, by decide⟩

/-- R79's own example of a call that wraps and makes no access: `DEC.HIGH buf=0x1000, len=0xFFFFFFFF`. -/
def tooLong : Engine := eng 0x02#8 0#32 0x1000 0xFFFFFFFF false .validating

/-- A None call on a region that wraps. -/
def wrappingNone : Engine := eng 0x00#8 0#32 0xFFFFFFFF 2 false .validating

/-- An illegal tag, on a region that wraps. -/
def wrappingIllegal : Engine := eng 0x03#8 0#32 0xFFFFFFFF 2 false .validating

/-- A call that scans; and calls that do not, on regions that wrap. -/
theorem witness_CallEndsWithinBound :
    ∀ g ∈ [valHigh, tooLong, wrappingNone, wrappingIllegal],
      StateInv (mach false [g] [] (turns 0 (1 + g.len))) ∧
      (mach false [g] [] (turns 0 (1 + g.len))).engines[0]? = some g ∧ g.phase = .validating ∧
      (g.mode = 0x01#8 ∨ g.mode = 0x02#8 → 0 < g.len → g.buf ≠ 0 → g.len ≤ maxLen (par false) →
        g.buf + g.len ≤ 2 ^ (par false).aw ∧ plainRegion (par false) g.region = true) ∧
      (mach false [g] [] (turns 0 (1 + g.len))).schedule = turns 0 (1 + g.len) ++ [] := by
  intro g hg
  refine ⟨one_inv ?_ _, rfl, ?_, ?_, (List.append_nil _).symm⟩ <;>
    simp only [List.mem_cons, List.not_mem_nil, or_false] at hg <;> rcases hg with rfl | rfl | rfl | rfl
  · exact valHigh_inv
  · constructor <;> decide
  · constructor <;> decide
  · constructor <;> decide
  all_goals decide

/-- With no byte step and with all that are left. -/
theorem witness_ScanCannotFail :
    StateInv (mach false [high0] [] (turns 0 3)) ∧ (mach false [high0] [] (turns 0 3)).engines[0]? = some high0 ∧
      high0.phase = .scanning ∧ (mach false [high0] [] (turns 0 3)).schedule = turns 0 (high0.len - high0.idx) ++ [] ∧
      (mach false [high0] [] []).schedule = turns 0 0 ++ [] :=
  ⟨one_inv high0_inv _, by decide⟩

theorem witness_NothingSurvivesACall :
    StateInv (mach false [valHigh] [] (turns 0 4)) ∧ (mach false [valHigh] [] (turns 0 4)).engines[0]? = some valHigh ∧
      valHigh.phase = .validating ∧ decode (par false).encodeExt (valHigh.sel (par false)) = .ok .decHigh ∧ valHigh.buf ≠ 0 ∧
      valHigh.len ≤ maxLen (par false) ∧ maxLen (par false) ≤ maxLen (par false) ∧
      valHigh.buf + valHigh.len ≤ 2 ^ (par false).aw ∧ plainRegion (par false) valHigh.region = true ∧
      (mach false [valHigh] [] (turns 0 4)).schedule = turns 0 (callSteps .decHigh valHigh.len) ++ [] :=
  ⟨one_inv valHigh_inv _, by decide⟩

/-- After no byte and after all but the last. -/
theorem witness_ResetInMidScan :
    StateInv (mach false [high0] [] (turns 0 2 ++ [.reset])) ∧
      (mach false [high0] [] (turns 0 2 ++ [.reset])).engines[0]? = some high0 ∧ high0.phase = .scanning ∧ high0.idx = 0 ∧
      decode (par false).encodeExt (high0.sel (par false)) = .ok .decHigh ∧ 2 < high0.len ∧ 0 < high0.len ∧
      (mach false [high0] [] (turns 0 2 ++ [.reset])).schedule = turns 0 2 ++ .reset :: [] ∧
      (mach false [high0] [] [.reset]).schedule = turns 0 0 ++ .reset :: [] :=
  ⟨one_inv high0_inv _, by decide⟩

end WholeCallWitnesses

section HostWitnesses

/-- Every register number up to 8 occurs in some clause, on a busy and on an idle instance. -/
theorem witness_RegisterWrite :
    ∀ n ∈ [0, 1, 2, 3, 4, 5, 6, 7, 8],
      (mach false [idle] [] [.regWrite 0 n 0xFFFFFFFFFF]).engines[0]? = some idle ∧ idle.busy = false ∧
      (mach false [high0] [] [.regWrite 0 n 0]).engines[0]? = some high0 ∧ high0.busy = true ∧
      (mach false [idle] [] [.regWrite 0 n 0xFFFFFFFFFF]).schedule = .regWrite 0 n 0xFFFFFFFFFF :: [] := by decide

/-- Operands written and not written. -/
theorem witness_RegisterRead :
    ∀ n ∈ [0, 1, 2, 3, 4, 5, 6, 7, 8],
      (mach true [idle, Engine.reset] [] [.regRead 0 n]).engines[0]? = some idle ∧ idle.written.mode = true ∧
      (mach true [idle, Engine.reset] [] [.regRead 0 n]).engines[1]? = some Engine.reset ∧ Engine.reset.written.buf = false ∧
      (mach true [idle, Engine.reset] [] [.regRead 0 n]).schedule = .regRead 0 n :: [] := by decide

theorem witness_BusyRegisterAccess :
    StateInv (mach false [high0] [] [.regRead 0 7]) ∧ (mach false [high0] [] [.regRead 0 7]).engines[0]? = some high0 ∧
      high0.busy = true ∧ (mach false [high0] [] [.regRead 0 7]).schedule = .regRead 0 7 :: [] ∧
      StateInv (mach false [high0] [] [.regWrite 0 4 1]) :=
  ⟨one_inv high0_inv _, by decide, by decide, by decide, one_inv high0_inv _⟩

/-- A busy instance; DIR alone; START; START.ENC. -/
theorem witness_StartBeginsACall :
    (mach true [high0] [] [.regWrite 0 4 1]).engines[0]? = some high0 ∧ high0.busy = true ∧
      (∀ v ∈ [0, 1, 2, 3], (mach true [idle, high0] [] [.regWrite 0 4 v]).engines[0]? = some idle) ∧ idle.busy = false ∧
      (2).testBit 0 = false ∧ (3).testBit 0 = true ∧ idle.operandsWritten = true ∧
      (mach true [idle, high0] [] [.regWrite 0 4 3]).overlapsRunning idle = false := by decide

/-- Right after reset, and a High call with KEY alone not written. -/
theorem witness_StartNeedsItsOperands :
    (mach false [Engine.reset] [] [.regWrite 0 4 1]).engines[0]? = some Engine.reset ∧ Engine.reset.busy = false ∧
      (1).testBit 0 = true ∧ Engine.reset.written.mode = false ∧
      (let g : Engine := { idle with mode := 0x02#8, written := { mode := true, key := false, buf := true, len := true } }
       g.busy = false ∧ g.written.key = false ∧ g.mode ≠ 0x00#8 ∧ g.mode ≠ 0x01#8) := by decide

/-- The first and the last byte of a running call's region; a START whose region shares one byte; and bytes on either side. -/
theorem witness_RunningCallOwnsItsRegion :
    (∀ a ∈ [0x1000, 0x1002], high0 ∈ (mach false [high0] [] [.memRead a]).engines ∧ high0.busy = true ∧ high0.buf ≠ 0 ∧
      high0.buf ≤ a ∧ a < high0.buf + high0.len ∧ a < 2 ^ (par false).aw) ∧
    (let g : Engine := { idle with buf := 0x1002 }
     high0 ∈ (mach false [g, high0] [] [.regWrite 0 4 1]).engines ∧
      (mach false [g, high0] [] [.regWrite 0 4 1]).engines[0]? = some g ∧ g.busy = false ∧ g.buf ≠ 0 ∧ g.buf ≤ 0x1002 ∧
      0x1002 < g.buf + g.len ∧ 0x1002 < high0.buf + high0.len ∧ g.operandsWritten = true) ∧
    ∀ a ∈ [0x0FFF, 0x1003, 0xFFFFFFFF], a < 2 ^ (par false).aw ∧ plainAddr (par false) a = true ∧
      (mach false [high0] [] [.memWrite a 0x01#8]).owned a = false := by decide

/-- The first address that does not exist; and an address that is not plain memory. -/
theorem witness_HostAccessNeedsMemory :
    (mach false [idle] [] [.memRead 0x100000000]).schedule = .memRead 0x100000000 :: [] ∧ 2 ^ (par false).aw ≤ 0x100000000 ∧
    (let s := { mach false [idle] [] [.memWrite 0 0x01#8] with
       params := { par false with unbacked := [{ base := 0, size := 1 }] } }
     s.schedule = .memWrite 0 0x01#8 :: [] ∧ 0 < 2 ^ s.params.aw ∧ s.owned 0 = false ∧ plainAddr s.params 0 = false) := by
  decide

theorem witness_WaitAnswersTheEnd :
    (mach false [failed, { idle with phase := .done }] [] [.wait 0]).engines[0]? = some failed ∧ failed.phase = .failed ∧
      (mach false [failed, { idle with phase := .done }] [] [.wait 1]).engines[1]? = some { idle with phase := .done } := by
  decide

theorem witness_NoDirectionBitWithoutExtension :
    (par false).encodeExt = false ∧ (mach false [idle] [] [.regWrite 0 4 3]).engines[0]? = some idle ∧ idle.busy = false ∧
      (mach false [idle] [] [.regWrite 0 4 3]).schedule = .regWrite 0 4 3 :: [] ∧ idle.operandsWritten = true ∧
      (mach false [idle] [] [.regWrite 0 4 3]).overlapsRunning idle = false ∧ idle.mode.toNat ≤ 2 := by decide

end HostWitnesses

section ResetWitnesses

theorem witness_ResetEvent :
    (mach false [high0, failed] [] [.reset, .engine 1]).schedule = .reset :: [.engine 1] ∧
      1 < (mach false [high0, failed] [] [.reset, .engine 1]).engines.length := by decide

theorem witness_ResetValues : (0 < 1) ∧ (1).testBit 0 = true ∧ (3).testBit 0 = true := by decide

theorem witness_ResetMeetsInvariant : ParamsLegal (par true) ∧ 0 < 2 := ⟨par_legal true, by decide⟩

end ResetWitnesses

section WholeMachineWitnesses

/-- Three instances, two of them busy: a byte step, a host write to memory, a START. -/
theorem witness_StepKeepsInvariant :
    ∀ ev ∈ [Event.engine 0, .memWrite 0x3000 0x01#8, .regWrite 2 4 1, .reset],
      StateInv (mach false [high0, compTop, failed] [(0x2000, 0x5A#8)] [ev]) ∧
        ∃ t, step (mach false [high0, compTop, failed] [(0x2000, 0x5A#8)] [ev]) = .next t := by
  intro ev hev
  refine ⟨three_inv _, exists_next ?_⟩
  revert ev
  decide +kernel

/-- A phase of each kind, in a step that is not a reset and in one that is. -/
theorem witness_PhaseMachine :
    (StateInv (mach false [high0, compTop, failed] [(0x2000, 0x5A#8)] [.engine 1]) ∧
      (mach false [high0, compTop, failed] [(0x2000, 0x5A#8)] [.engine 1]).schedule.head? ≠ some .reset ∧
      (∃ t, step (mach false [high0, compTop, failed] [(0x2000, 0x5A#8)] [.engine 1]) = .next t ∧ t.engines[1]?.isSome = true)) ∧
    (StateInv (mach false [valHigh] [] [.engine 0]) ∧
      ∃ t, step (mach false [valHigh] [] [.engine 0]) = .next t ∧ t.engines[0]?.isSome = true) ∧
    StateInv (mach false [idle] [] [.reset]) ∧ (mach false [idle] [] [.reset]).schedule.head? = some .reset :=
  ⟨⟨three_inv _, by decide, _, rfl, by decide +kernel⟩, ⟨one_inv valHigh_inv _, _, rfl, by decide +kernel⟩, one_inv idle_inv _, rfl⟩

/-- A write to LEN and a START aimed at a busy instance, and its own byte step. -/
theorem witness_OperandsFrozenWhileBusy :
    high0.busy = true ∧ ∀ ev ∈ [Event.regWrite 0 3 1, .regWrite 0 4 1, .engine 0],
      (mach false [high0] [] [ev]).schedule.head? ≠ some .reset ∧ (mach false [high0] [] [ev]).engines[0]? = some high0 ∧
      ∃ t h, step (mach false [high0] [] [ev]) = .next t ∧ t.engines[0]? = some h := by
  refine ⟨rfl, ?_⟩
  intro ev hev
  simp only [List.mem_cons, List.not_mem_nil, or_false] at hev
  rcases hev with rfl | rfl | rfl <;> exact ⟨by decide, rfl, _, _, rfl, rfl⟩

/-- A read of ERR, a START, a reset. -/
theorem witness_FailureIsSticky :
    failed.phase = .failed ∧ ∀ ev ∈ [Event.regRead 0 7, .regWrite 0 4 1, .reset],
      (mach false [failed] [] [ev]).engines[0]? = some failed ∧
      ∃ t h, step (mach false [failed] [] [ev]) = .next t ∧ t.engines[0]? = some h := by
  refine ⟨rfl, ?_⟩
  intro ev hev
  simp only [List.mem_cons, List.not_mem_nil, or_false] at hev
  rcases hev with rfl | rfl | rfl <;> exact ⟨rfl, _, _, rfl, rfl⟩

/-- A byte step beside another running call, in each of the three ways to be given the turn. -/
theorem witness_EngineStepsAreIsolated :
    compTop.busy = true ∧ compTop.buf ≠ 0 ∧ ∀ l ∈ [[Event.engine 0], [.wait 0], []],
      StateInv (mach false [high0, compTop, failed] [(0x2000, 0x5A#8)] l) ∧
      (mach false [high0, compTop, failed] [(0x2000, 0x5A#8)] l).engines[0]? = some high0 ∧
      (mach false [high0, compTop, failed] [(0x2000, 0x5A#8)] l).engines[1]? = some compTop ∧
      (mach false [high0, compTop, failed] [(0x2000, 0x5A#8)] l).schedule = l ∧
      (mach false [high0, compTop, failed] [(0x2000, 0x5A#8)] l).engines.findIdx? (fun h => h.busy) = some 0 ∧
      ∃ t, step (mach false [high0, compTop, failed] [(0x2000, 0x5A#8)] l) = .next t := by
  refine ⟨rfl, by decide, ?_⟩
  intro l hl
  refine ⟨three_inv _, rfl, rfl, rfl, rfl, exists_next ?_⟩
  revert l
  decide +kernel

theorem witness_FailureLeavesEverythingElse :
    let g := eng 0x03#8 0#32 0 0 false .validating
    (mach false [g, idle] [] [.engine 0]).engines[0]? = some g ∧ g.phase ≠ .failed ∧
      ∃ t h, step (mach false [g, idle] [] [.engine 0]) = .next t ∧ t.engines[0]? = some h ∧ h.phase = .failed :=
  ⟨rfl, by decide, _, _, rfl, rfl, rfl⟩

end WholeMachineWitnesses

end Sys2Proof.Tests
end

section
/-! PROOFS. The invariant `StateInv` (Safety.lean): it holds after reset, and every kind of step keeps it. -/

namespace Sys2Proof

namespace Machine

section Regions

theorem regionsMeet_comm (r q : Region) : regionsMeet r q = regionsMeet q r := by
  rw [Bool.eq_iff_iff]
  simp only [regionsMeet, Bool.and_eq_true, decide_eq_true_eq]
  tauto

theorem not_overlapsRunning_iff {s : State} {g : Engine} :
    s.overlapsRunning g = false ↔ ∀ h ∈ s.engines, h.busy = true → regionsMeet h.region g.region = false := by
  simp [State.overlapsRunning]

end Regions

section Salt

@[simp] theorem saltAt_zero (key : Key) : saltAt key 0 = saltInit key := by simp [saltAt]

/-- One `advance` takes the closed form to the next byte (42_salt_scheduler.md R155). -/
theorem saltAt_succ (key : Key) (k : Nat) : saltAt key (k + 1) = saltAdvance (saltAt key k) := by
  simp [saltAt, saltAdvance, inc16, BitVec.ofNat_add, BitVec.add_assoc]

end Salt

section Memory

theorem lt_addrSpace_of_port {p : Params} {a : Nat} (h : portRefusal p a = none) : a < addrSpace p := by
  unfold portRefusal at h
  split at h
  · cases h
  · next ha => exact Nat.lt_of_not_le ha

theorem Memory.write_space {m : Memory} {a n : Nat} (v : Byte) (hm : ∀ c ∈ m, c.1 < n) (ha : a < n) :
    ∀ c ∈ m.write a v, c.1 < n := by
  intro c hc
  rcases Memory.mem_write m a v hc with rfl | hc
  · exact ha
  · exact hm c hc

end Memory

section Moves
variable {p : Params} {m m' : Memory} {g g' : Engine}

/-- An engine step leaves the operands and DIR (10_state.md R38). -/
theorem EngineMove.operands (h : EngineMove p m g g' m') :
    g'.mode = g.mode ∧ g'.key = g.key ∧ g'.buf = g.buf ∧ g'.len = g.len ∧ g'.dir = g.dir := by
  cases h <;> next hg _ => subst hg; simp

theorem EngineMove.region_eq (h : EngineMove p m g g' m') : g'.region = g.region := by
  cases h <;> next hg _ => subst hg; simp

/-- An engine step writes MEM only in a BYTE step, and there only at BUF + IDX (45_host_commands.md R226). -/
theorem EngineMove.mem_eq_or_write (h : EngineMove p m g g' m') :
    m' = m ∨ g.phase = .scanning ∧ portRefusal p g.byteAddr = none ∧ ∃ v, m' = m.write g.byteAddr v := by
  cases h with
  | fail k hp hv hg hm => exact .inl hm
  | finish hp hv hg hm => exact .inl hm
  | enter hp hv hf hr hg hm => exact .inl hm
  | byte i hd hp hs ha hg hm => exact .inr ⟨hp, ha, _, hm⟩

theorem EngineMove.mem_wf (h : EngineMove p m g g' m') (hm : m.wf = true) : m'.wf = true := by
  obtain rfl | ⟨-, -, v, rfl⟩ := h.mem_eq_or_write
  · exact hm
  · exact Memory.write_wf hm _ v

theorem EngineMove.mem_space (h : EngineMove p m g g' m') (hm : ∀ c ∈ m, c.1 < addrSpace p) :
    ∀ c ∈ m', c.1 < addrSpace p := by
  obtain rfl | ⟨-, ha, v, rfl⟩ := h.mem_eq_or_write
  · exact hm
  · exact Memory.write_space v hm (lt_addrSpace_of_port ha)

end Moves

theorem validate_fail_ne_noError {p : Params} {g : Engine} {k : ErrKind} (h : validate p g = .fail k) : k ≠ .noError := by
  rcases validate_fail h with ⟨rfl, -⟩ | ⟨rfl, -, -⟩ | ⟨rfl, -⟩ <;> simp

theorem mode_of_validateTag {tag : Byte} (h : validateTag tag = true) (hn : tag ≠ tagNone) : tag = tagComp ∨ tag = tagHigh := by
  simpa [validateTag, hn] using h

section WriteOperand
variable (p : Params) (g : Engine) (n v : Nat)

/-- A write to an operand register touches no other register (45_host_commands.md R221). -/
theorem Engine.writeOperand_keeps :
    (g.writeOperand p n v).dir = g.dir ∧ (g.writeOperand p n v).phase = g.phase ∧
      (g.writeOperand p n v).count = g.count ∧ (g.writeOperand p n v).err = g.err ∧
      (g.writeOperand p n v).idx = g.idx := by
  unfold Engine.writeOperand
  split <;> simp

theorem Engine.writeOperand_buf_lt (h : g.buf < addrSpace p) : (g.writeOperand p n v).buf < addrSpace p := by
  unfold Engine.writeOperand
  split <;> first | exact h | exact Nat.mod_lt _ (Nat.two_pow_pos _)

theorem Engine.writeOperand_len_lt (h : g.len < addrSpace p) : (g.writeOperand p n v).len < addrSpace p := by
  unfold Engine.writeOperand
  split <;> first | exact h | exact Nat.mod_lt _ (Nat.two_pow_pos _)

end WriteOperand

end Machine

open Machine

section EngineInvariant
variable {p : Params} {g : Engine}

/-- The invariant of an engine that is not SCANNING: what it says of a scan is void. -/
theorem EngineInv.of_not_scanning (hs : g.phase ≠ .scanning) (buf_lt : g.buf < addrSpace p) (len_lt : g.len < addrSpace p)
    (count_le : g.count ≤ maxLen p) (idx_le : g.idx ≤ maxLen p) (err_iff : g.err ≠ .noError ↔ g.phase = .failed)
    (count_zero : g.phase ≠ .done → g.count = 0) (dir_absent : p.encodeExt = false → g.dir = false)
    (busy_written : g.busy = true → g.operandsWritten = true) : EngineInv p g :=
  { buf_lt, len_lt, count_le, idx_le, err_iff, count_zero, dir_absent, busy_written
    scan_mode := fun h => absurd h hs
    scan_idx := fun h => absurd h hs
    scan_len := fun h => absurd h hs
    scan_buf := fun h => absurd h hs
    scan_fits := fun h => absurd h hs
    scan_plain := fun h => absurd h hs
    scan_salt := fun h => absurd h hs }

theorem EngineInv.reset (p : Params) : EngineInv p Engine.reset :=
  .of_not_scanning (by simp [Engine.reset]) (Nat.two_pow_pos _) (Nat.two_pow_pos _) (Nat.zero_le _) (Nat.zero_le _)
    (by simp [Engine.reset]) (fun _ => rfl) (fun _ => rfl) (by simp [Engine.busy, Engine.reset, Phase.isBusy])

theorem phase_ne_scanning_of_not_busy (hb : g.busy = false) : g.phase ≠ .scanning := by
  intro h
  simp [Engine.busy, h, Phase.isBusy] at hb

theorem EngineInv.err_of_ne_failed (hi : EngineInv p g) (h : g.phase ≠ .failed) : g.err = .noError := by
  by_contra hne
  exact h (hi.err_iff.1 hne)

theorem EngineInv.writeOperand (hi : EngineInv p g) (hb : g.busy = false) (n v : Nat) :
    EngineInv p (g.writeOperand p n v) := by
  obtain ⟨hdir, hphase, hcount, herr, hidx⟩ := g.writeOperand_keeps p n v
  have hb' : (g.writeOperand p n v).busy = false := by rw [Engine.busy, hphase]; exact hb
  refine .of_not_scanning (phase_ne_scanning_of_not_busy hb') (g.writeOperand_buf_lt p n v hi.buf_lt)
    (g.writeOperand_len_lt p n v hi.len_lt) ?_ ?_ ?_ ?_ ?_ (by simp [hb'])
  · rw [hcount]; exact hi.count_le
  · rw [hidx]; exact hi.idx_le
  · rw [herr, hphase]; exact hi.err_iff
  · rw [hphase, hcount]; exact hi.count_zero
  · rw [hdir]; exact hi.dir_absent

theorem Machine.Engine.setDir_absent (h : p.encodeExt = false → g.dir = false) (v : Nat) :
    p.encodeExt = false → (g.setDir p v).dir = false := by
  intro he
  simpa [Engine.setDir_dir, he] using h he

theorem EngineInv.setDir (hi : EngineInv p g) (hb : g.busy = false) (v : Nat) : EngineInv p (g.setDir p v) := by
  have hb' : (g.setDir p v).busy = false := by simpa [Engine.busy] using hb
  refine .of_not_scanning (phase_ne_scanning_of_not_busy hb') ?_ ?_ ?_ ?_ ?_ ?_ (Engine.setDir_absent hi.dir_absent v)
    (by simp [hb'])
  · simpa using hi.buf_lt
  · simpa using hi.len_lt
  · simpa using hi.count_le
  · simpa using hi.idx_le
  · simpa using hi.err_iff
  · simpa using hi.count_zero

theorem EngineInv.accept (hi : EngineInv p g) (hw : g.operandsWritten = true) : EngineInv p g.accept :=
  .of_not_scanning (by simp) hi.buf_lt hi.len_lt (Nat.zero_le _) hi.idx_le (by simp) (fun _ => rfl) hi.dir_absent
    (fun _ => hw)

theorem EngineInv.raise {k : ErrKind} (hi : EngineInv p g) (hp : g.phase = .validating) (hk : k ≠ .noError) :
    EngineInv p (g.raise k) :=
  .of_not_scanning (by simp) hi.buf_lt hi.len_lt hi.count_le hi.idx_le (by simpa using hk)
    (fun _ => hi.count_zero (by simp [hp])) hi.dir_absent (by simp [Engine.busy, Phase.isBusy])

theorem EngineInv.finish (hi : EngineInv p g) (hp : g.phase ≠ .failed) (hl : g.len ≤ maxLen p) : EngineInv p g.finish :=
  .of_not_scanning (by simp) hi.buf_lt hi.len_lt hl hi.idx_le (by simpa using hi.err_of_ne_failed hp) (by simp)
    hi.dir_absent (by simp [Engine.busy, Phase.isBusy])

/-- The entry to the scan begins the closed form of the salt at byte 0 (41_mode_validator.md R146, 42_salt_scheduler.md R155). -/
theorem EngineInv.enterScan (hi : EngineInv p g) (hp : g.phase = .validating) (hv : validate p g = .scan)
    (hf : regionFits p g = true) (hr : plainRegion p g.region = true) :
    EngineInv p (g.enterScan (decide (g.mode = tagHigh))) := by
  obtain ⟨htag, hlen, hbuf, hmax, hnone⟩ := (validate_scan_iff p g).1 hv
  exact
    { buf_lt := hi.buf_lt
      len_lt := hi.len_lt
      count_le := hi.count_le
      idx_le := Nat.zero_le _
      err_iff := by simpa using hi.err_of_ne_failed (by simp [hp])
      count_zero := fun _ => hi.count_zero (by simp [hp])
      dir_absent := hi.dir_absent
      busy_written := fun _ => hi.busy_written (by simp [Engine.busy, hp, Phase.isBusy])
      scan_mode := fun _ => mode_of_validateTag htag hnone
      scan_idx := fun _ => hlen
      scan_len := fun _ => hmax
      scan_buf := fun _ => hbuf
      scan_fits := fun _ => hf
      scan_plain := fun _ => hr
      scan_salt := fun _ hm => by simp at hm; simp [hm] }

/-- A BYTE step that is not the last goes on with the salt of the next byte; the last one ends the call. -/
theorem EngineInv.advance {high : Bool} (hi : EngineInv p g) (hp : g.phase = .scanning)
    (hh : g.mode = tagHigh → high = true) : EngineInv p (g.advance high) := by
  have hidx := hi.scan_idx hp
  have hlen := hi.scan_len hp
  have herr := hi.err_of_ne_failed (by simp [hp])
  by_cases hend : g.idx + 1 = g.len
  · have hphase : (g.advance high).phase = .done := by simp [Engine.advance_phase, hend]
    refine .of_not_scanning (by simp [hphase]) ?_ ?_ ?_ ?_ ?_ ?_ ?_ ?_
    · simpa using hi.buf_lt
    · simpa using hi.len_lt
    · simpa [Engine.advance_count, hend] using hlen
    · simp; omega
    · simp [hphase, herr]
    · simp [hphase]
    · simpa using hi.dir_absent
    · simp [Engine.busy, hphase, Phase.isBusy]
  · have hadv : g.advance high =
        { g with salt := if high then saltAdvance g.salt else g.salt, idx := g.idx + 1 } := by
      simp [Engine.advance, hend]
    rw [hadv]
    exact { hi with
      idx_le := by simp; omega
      scan_idx := fun _ => by simp; omega
      scan_salt := fun _ hm => by
        have hsalt := hi.scan_salt hp hm
        simp [hh hm, hsalt, saltAt_succ] }

theorem EngineInv.move {m m' : Memory} {g' : Engine} (hi : EngineInv p g) (h : EngineMove p m g g' m') :
    EngineInv p g' := by
  cases h with
  | fail k hp hv hg hm => rw [hg]; exact hi.raise hp (validate_fail_ne_noError hv)
  | finish hp hv hg hm =>
    obtain ⟨-, -, hlen, -⟩ := (validate_finish_iff p g).1 hv
    rw [hg]
    exact hi.finish (by simp [hp]) hlen
  | enter hp hv hf hr hg hm => rw [hg]; exact hi.enterScan hp hv hf hr
  | byte i hd hp hs ha hg hm =>
    rw [hg]
    refine hi.advance hp fun hmode => ?_
    obtain ⟨htag, -, -⟩ := Engine.decode_sel hd
    exact (tag_eq_high i).1 (htag ▸ hmode)

end EngineInvariant

section StateInvariant
variable {s t : State} {e : Nat} {g g' : Engine}

theorem StateInv.engine (hi : StateInv s) (hg : s.engines[e]? = some g) : EngineInv s.params g :=
  hi.engines g (List.mem_of_getElem? hg)

theorem StateInv.of_same_engines (hi : StateInv s) (hp : t.params = s.params) (he : t.engines = s.engines)
    (hw : t.mem.wf = true) (hm : ∀ c ∈ t.mem, c.1 < addrSpace s.params) : StateInv t := by
  obtain ⟨params, some_engine, engines, disjoint, -, -⟩ := hi
  exact ⟨hp ▸ params, he ▸ some_engine, by rw [hp, he]; exact engines, by rw [he]; exact disjoint, hw, by rw [hp]; exact hm⟩

/-- Replacing one engine by a sound one whose region, if it is busy, meets that of no other running call. -/
theorem StateInv.set_engine (hi : StateInv s) (hg : s.engines[e]? = some g) (hp : t.params = s.params)
    (he : t.engines = s.engines.set e g') (hinv : EngineInv s.params g')
    (hdis : g'.busy = true → ∀ f h, f ≠ e → s.engines[f]? = some h → h.busy = true →
      regionsMeet g'.region h.region = false)
    (hw : t.mem.wf = true) (hm : ∀ c ∈ t.mem, c.1 < addrSpace s.params) : StateInv t := by
  have hlt : e < s.engines.length := (List.getElem?_eq_some_iff.1 hg).1
  refine ⟨hp ▸ hi.params, ?_, ?_, ?_, hw, by rw [hp]; exact hm⟩
  · rw [he]
    simpa using hi.some_engine
  · rw [hp, he]
    intro h hh
    rcases List.mem_or_eq_of_mem_set hh with hh | rfl
    · exact hi.engines h hh
    · exact hinv
  · rw [he]
    intro a b x y hx hy hne hbx hby
    by_cases ha : a = e
    · subst ha
      rw [List.getElem?_set_self hlt, Option.some_inj] at hx
      rw [List.getElem?_set_ne hne] at hy
      subst hx
      exact hdis hbx b y (Ne.symm hne) hy hby
    · rw [List.getElem?_set_ne (Ne.symm ha)] at hx
      by_cases hb : b = e
      · subst hb
        rw [List.getElem?_set_self hlt, Option.some_inj] at hy
        subst hy
        rw [regionsMeet_comm]
        exact hdis hby a x ha hx hbx
      · rw [List.getElem?_set_ne (Ne.symm hb)] at hy
        exact hi.disjoint a b x y hx hy hne hbx hby

/-- Replacing one engine by a sound one that is not busy, MEM unchanged. -/
theorem StateInv.set_idle (hi : StateInv s) (hg : s.engines[e]? = some g) (hp : t.params = s.params)
    (he : t.engines = s.engines.set e g') (hm : t.mem = s.mem) (hinv : EngineInv s.params g') (hb : g'.busy = false) :
    StateInv t :=
  hi.set_engine hg hp he hinv (by simp [hb]) (hm ▸ hi.mem_wf) (hm ▸ hi.mem_space)

theorem StateInv.of_reset_engines (hi : StateInv s) (hp : t.params = s.params)
    (he : t.engines = s.engines.map (fun _ => Engine.reset)) (hm : t.mem = s.mem) : StateInv t := by
  have hreset : ∀ h ∈ t.engines, h = Engine.reset := by
    rw [he]
    simp
  refine ⟨hp ▸ hi.params, ?_, fun h hh => hreset h hh ▸ EngineInv.reset _, ?_, hm ▸ hi.mem_wf, ?_⟩
  · rw [he]
    simpa using hi.some_engine
  · intro a b x y hx _ _ hbx
    rw [hreset x (List.mem_of_getElem? hx)] at hbx
    cases hbx
  · rw [hm, hp]
    exact hi.mem_space

theorem StateInv.resetWith {p : Params} {n : Nat} (hp : ParamsLegal p) (hn : 0 < n) : StateInv (State.resetWith p n) where
  params := hp
  some_engine := by simp [State.resetWith]; omega
  engines := fun h hh => List.eq_of_mem_replicate hh ▸ EngineInv.reset p
  disjoint := by
    intro a b x y hx _ _ hbx
    rw [List.eq_of_mem_replicate (List.mem_of_getElem? hx)] at hbx
    cases hbx
  mem_wf := rfl
  mem_space := by simp [State.resetWith]

/-- Each kind of step keeps the invariant. -/
theorem StateInv.stepKind {ev : Option Event} (hi : StateInv s) (hp : t.params = s.params) (h : StepKind ev s t) :
    StateInv t := by
  cases h with
  | quiet he hm => exact hi.of_same_engines hp he (hm ▸ hi.mem_wf) (hm ▸ hi.mem_space)
  | memWrite a v ha ho he hm =>
    exact hi.of_same_engines hp he (hm ▸ Memory.write_wf hi.mem_wf a v) (hm ▸ Memory.write_space v hi.mem_space ha)
  | operand e g n v hg hb hn he hm =>
    obtain ⟨-, hphase, -⟩ := g.writeOperand_keeps s.params n v
    exact hi.set_idle hg hp he hm ((hi.engine hg).writeOperand hb n v) (by rw [Engine.busy, hphase]; exact hb)
  | direction e g v hg hb hv he hm =>
    exact hi.set_idle hg hp he hm ((hi.engine hg).setDir hb v) (by simpa [Engine.busy] using hb)
  | start e g v hg hb hv hw ho hev he hm =>
    have hw' : (g.setDir s.params v).operandsWritten = true := by simpa [Engine.operandsWritten] using hw
    refine hi.set_engine hg hp he (((hi.engine hg).setDir hb v).accept hw') ?_ (hm ▸ hi.mem_wf) (hm ▸ hi.mem_space)
    intro _ f h _ hf hbh
    rw [regionsMeet_comm]
    simpa using not_overlapsRunning_iff.1 ho h (List.mem_of_getElem? hf) hbh
  | engine e g g' hg hb hmove he =>
    refine hi.set_engine hg hp he ((hi.engine hg).move hmove) ?_ (hmove.mem_wf hi.mem_wf) (hmove.mem_space hi.mem_space)
    intro _ f h hne hf hbh
    rw [hmove.region_eq]
    exact hi.disjoint e f g h hg hf (Ne.symm hne) hb hbh
  | reset hev he hm => exact hi.of_reset_engines hp he hm

end StateInvariant

/-- Settles O48: `StateInv.stepKind` over the kinds of step that `step_next` lists. -/
theorem stepKeepsInvariant : Obligations.StepKeepsInvariant := by
  intro s t hi h
  obtain ⟨hkind, hp⟩ := step_next h
  exact hi.stepKind hp hkind

/-- Settles O47: no call runs after reset, and the default parameters are legal. -/
theorem resetMeetsInvariant : Obligations.ResetMeetsInvariant :=
  ⟨fun _ _ hp hn => .resetWith hp hn, .resetWith ⟨by decide, Tests.defaultTables_legal⟩ Nat.one_pos⟩

end Sys2Proof
end

section
/-! PROOFS. What `exec` answers, for any command over any registers (45_host_commands.md R224 to R228): the frame of the six
commands, and that of KEY only its fold counts. -/

namespace Sys2Proof

namespace Machine

section ExecSteps
variable {s : State} {g : Engine} {i : Instr}

theorem wellFormed_of_exec {t : State} (h : exec i s = .next t) : i.wellFormed s.params.encodeExt = true := by
  rw [exec_eq] at h
  split at h
  · assumption
  · cases h

theorem exec_validating (hw : i.wellFormed s.params.encodeExt = true) (hg : s.engines[s.turn]? = some g)
    (hp : g.phase = .validating) : exec i s = validateStep s g := by
  rw [exec_eq, if_pos hw, commandStep_of hg, hp]

theorem exec_scanning (hw : i.wellFormed s.params.encodeExt = true) (hg : s.engines[s.turn]? = some g)
    (hp : g.phase = .scanning) : exec i s = byteOf i s g := by
  rw [exec_eq, if_pos hw, commandStep_of hg, hp]

theorem exec_not_busy (hw : i.wellFormed s.params.encodeExt = true) (hg : s.engines[s.turn]? = some g)
    (hb : g.busy = false) : exec i s = .next s := by
  rw [exec_eq, if_pos hw, commandStep_of hg]
  cases hp : g.phase <;> simp [Engine.busy, hp, Phase.isBusy] at hb ⊢

end ExecSteps

/-- VALIDATE answers a next state exactly by a move of the validation phase. -/
theorem validateStep_next_iff {s t : State} {g : Engine} (hp : g.phase = .validating) :
    validateStep s g = .next t ↔ ∃ g', EngineMove s.params s.mem g g' s.mem ∧ t = s.moved s.turn g' s.mem := by
  refine ⟨validateStep_next hp, ?_⟩
  rintro ⟨g', hmove, rfl⟩
  cases hmove with
  | fail k _ hv hg _ => simp only [validateStep, hv, hg]; rfl
  | finish _ hv hg _ => simp only [validateStep, hv, hg]; rfl
  | enter _ hv hf hr hg _ => simp [validateStep, hv, hf, hr, hg, State.moved, State.setCurrent, State.setEngine]
  | byte i _ hp' => simp [hp] at hp'

/-- BYTE answers a next state exactly when its access can be made. -/
theorem byteOf_next_iff {s t : State} {g : Engine} {i : Instr} :
    byteOf i s g = .next t ↔ scans i = true ∧ portRefusal s.params g.byteAddr = none ∧
      t = s.moved s.turn (g.advance (isHigh i))
        (s.mem.write g.byteAddr (byteOut s.params.tables i g.salt (s.mem.read g.byteAddr))) := by
  unfold byteOf
  constructor
  · intro h
    split at h
    · next hs => exact ⟨hs, byteStep_next h⟩
    · cases h
  · rintro ⟨hs, ha, rfl⟩
    simp only [hs, if_true, byteStep, ha]
    rfl

/-- Which registers `g'` and which memory `m'` the step of the command `i` leads to, whatever selector the engine `g` holds:
`EngineMove` is this for the selected command of a busy engine. -/
inductive ExecMove (i : Instr) (p : Params) (m : Memory) (g g' : Engine) (m' : Memory) : Prop where
  /-- An engine that is not busy takes no step (45_host_commands.md R228). -/
  | quiet (hb : g.busy = false) (hg : g' = g) (hm : m' = m)
  /-- VALIDATE, in which the command plays no part (41_mode_validator.md R140). -/
  | validate (hp : g.phase = .validating) (hmove : EngineMove p m g g' m) (hm : m' = m)
  /-- BYTE of a scanning command (45_host_commands.md R226). -/
  | byte (hp : g.phase = .scanning) (hs : scans i = true) (ha : portRefusal p g.byteAddr = none)
      (hg : g' = g.advance (isHigh i)) (hm : m' = m.write g.byteAddr (byteOut p.tables i g.salt (m.read g.byteAddr)))

theorem State.moved_self {s : State} {e : Nat} {g : Engine} (hg : s.engines[e]? = some g) : s.moved e g s.mem = s := by
  obtain ⟨hlt, rfl⟩ := List.getElem?_eq_some_iff.1 hg
  simp [State.moved, State.setEngine]

/-- `exec i` answers a next state exactly by one of its moves. -/
theorem exec_next_iff {s t : State} {g : Engine} {i : Instr} (hg : s.engines[s.turn]? = some g) :
    exec i s = .next t ↔ i.wellFormed s.params.encodeExt = true ∧
      ∃ g' m', ExecMove i s.params s.mem g g' m' ∧ t = s.moved s.turn g' m' := by
  refine ⟨fun h => ?_, ?_⟩
  · have hw := wellFormed_of_exec h
    refine ⟨hw, ?_⟩
    by_cases hv : g.phase = .validating
    · rw [exec_validating hw hg hv, validateStep_next_iff hv] at h
      obtain ⟨g', hmove, ht⟩ := h
      exact ⟨g', _, .validate hv hmove rfl, ht⟩
    by_cases hs : g.phase = .scanning
    · rw [exec_scanning hw hg hs, byteOf_next_iff] at h
      obtain ⟨hscan, ha, ht⟩ := h
      exact ⟨_, _, .byte hs hscan ha rfl rfl, ht⟩
    · have hb : g.busy = false := by cases hp : g.phase <;> simp_all [Engine.busy, Phase.isBusy]
      rw [exec_not_busy hw hg hb] at h
      cases h
      exact ⟨g, s.mem, .quiet hb rfl rfl, (State.moved_self hg).symm⟩
  · rintro ⟨hw, g', m', hmove, rfl⟩
    cases hmove with
    | quiet hb hg' hm => rw [exec_not_busy hw hg hb, hg', hm, State.moved_self hg]
    | validate hp hmove hm =>
      rw [exec_validating hw hg hp]
      exact (validateStep_next_iff hp).2 ⟨g', hmove, by rw [hm]⟩
    | byte hp hs ha hg' hm =>
      rw [exec_scanning hw hg hp]
      exact byteOf_next_iff.2 ⟨hs, ha, by rw [hg', hm]⟩

section Frame
variable {i : Instr} {p : Params} {m m' : Memory} {g g' : Engine}

theorem EngineMove.written_eq (h : EngineMove p m g g' m') : g'.written = g.written := by
  cases h <;> next hg _ => subst hg; simp

theorem ExecMove.operands (h : ExecMove i p m g g' m') :
    g'.mode = g.mode ∧ g'.key = g.key ∧ g'.buf = g.buf ∧ g'.len = g.len ∧ g'.dir = g.dir ∧ g'.written = g.written := by
  cases h with
  | quiet hb hg hm => simp [hg]
  | validate hp hmove hm =>
    obtain ⟨h1, h2, h3, h4, h5⟩ := hmove.operands
    exact ⟨h1, h2, h3, h4, h5, hmove.written_eq⟩
  | byte hp hs ha hg hm => simp [hg]

/-- What VALIDATE leaves of the registers that it may write. -/
theorem EngineMove.validate_frame (hp : g.phase = .validating) (h : EngineMove p m g g' m') :
    (g.mode ≠ tagHigh → g'.salt = g.salt) ∧ (g'.phase ≠ .failed → g'.err = g.err) ∧
      (g'.phase ≠ .done → g'.count = g.count) ∧ (g.mode = tagNone → g'.idx = g.idx) := by
  cases h with
  | fail k _ hv hg hm => simp [hg]
  | finish _ hv hg hm => simp [hg]
  | enter _ hv hf hr hg hm =>
    obtain ⟨-, -, -, -, hnone⟩ := (validate_scan_iff p g).1 hv
    subst hg
    exact ⟨fun hm => by simp [hm], fun _ => rfl, fun _ => rfl, fun hm => absurd hm hnone⟩
  | byte i hd hp' => simp [hp] at hp'

/-- What BYTE leaves of COUNT (45_host_commands.md R226): all of it, but at the end of the call. -/
theorem Engine.advance_count_of_not_done (g : Engine) (high : Bool) (h : (g.advance high).phase ≠ .done) :
    (g.advance high).count = g.count := by
  rw [Engine.advance_phase] at h
  rw [Engine.advance_count, if_neg fun hend => h (if_pos hend)]

/-- The frame of the other registers. -/
theorem ExecMove.registers (h : ExecMove i p m g g' m') :
    (g.mode ≠ tagHigh → isHigh i = false → g'.salt = g.salt) ∧ (g.phase ≠ .validating → g'.err = g.err) ∧
      (g'.phase ≠ .failed → g'.err = g.err) ∧ (g'.phase ≠ .done → g'.count = g.count) ∧
      (g.mode = tagNone → scans i = false → g'.idx = g.idx) ∧ (g.busy = false → g' = g) := by
  cases h with
  | quiet hb hg hm => simp [hg]
  | validate hp hmove hm =>
    obtain ⟨hsalt, herr, hcount, hidx⟩ := hmove.validate_frame hp
    exact ⟨fun h _ => hsalt h, fun h => absurd hp h, herr, hcount, fun h _ => hidx h,
      by simp [Engine.busy, hp, Phase.isBusy]⟩
  | byte hp hs ha hg hm =>
    subst hg
    refine ⟨fun _ hi => ?_, fun _ => by simp, fun _ => by simp, g.advance_count_of_not_done _, ?_, ?_⟩
    · simp [hi]
    · simp [hs]
    · simp [Engine.busy, hp, Phase.isBusy]

theorem ExecMove.read_ne (h : ExecMove i p m g g' m') {a : Nat} (ha : a ≠ g.byteAddr) : m'.read a = m.read a := by
  cases h with
  | quiet hb hg hm => rw [hm]
  | validate hp hmove hm => rw [hm]
  | byte hp hs hport hg hm => rw [hm, Memory.read_write_ne _ _ ha]

theorem ExecMove.mem_eq (h : ExecMove i p m g g' m') (hn : scans i = false ∨ g.phase ≠ .scanning) : m' = m := by
  cases h with
  | quiet hb hg hm => exact hm
  | validate hp hmove hm => exact hm
  | byte hp hs hport hg hm => simp [hs, hp] at hn

end Frame

section OtherKey
variable {i : Instr} {p : Params} {m m' : Memory} {g g' : Engine} {key : Key}

/-- KEY is read at one place, the entry to a High scan, and there as its fold (10_state.md R22). -/
theorem Engine.enterScan_withKey (hk : g.mode = tagHigh → saltInit key = saltInit g.key) :
    { g with key := key }.enterScan (decide (g.mode = tagHigh)) =
      { g.enterScan (decide (g.mode = tagHigh)) with key := key } := by
  by_cases hm : g.mode = tagHigh <;> simp [Engine.enterScan, hm, hk]

theorem Engine.advance_withKey (g : Engine) (key : Key) (high : Bool) :
    { g with key := key }.advance high = { g.advance high with key := key } := by
  simp only [Engine.advance]
  split <;> rfl

theorem EngineMove.validate_withKey (hk : g.mode = tagHigh → saltInit key = saltInit g.key)
    (hp : g.phase = .validating) (h : EngineMove p m g g' m') :
    EngineMove p m { g with key := key } { g' with key := key } m' := by
  cases h with
  | fail k _ hv hg hm => exact .fail k hp hv (by rw [hg]; rfl) hm
  | finish _ hv hg hm => exact .finish hp hv (by rw [hg]; rfl) hm
  | enter _ hv hf hr hg hm => exact .enter hp hv hf hr (by rw [hg]; exact (Engine.enterScan_withKey hk).symm) hm
  | byte i hd hp' => simp [hp] at hp'

/-- Every move of a command is one with the other key too. -/
theorem ExecMove.withKey (hk : g.mode = tagHigh → saltInit key = saltInit g.key) (h : ExecMove i p m g g' m') :
    ExecMove i p m { g with key := key } { g' with key := key } m' := by
  cases h with
  | quiet hb hg hm => exact .quiet hb (by rw [hg]) hm
  | validate hp hmove hm => exact .validate hp (hmove.validate_withKey hk hp) hm
  | byte hp hs ha hg hm => exact .byte hp hs ha (by rw [hg]; exact (g.advance_withKey key _).symm) hm

end OtherKey

end Machine

open Machine

/-- Settles O20: the frame of each move of `exec` (`ExecMove.operands`, `.registers`, `.read_ne`, `.mem_eq`); the rest of the state is
that of `State.moved`. -/
theorem commandFrame : Obligations.CommandFrame := by
  intro s t i g hg h
  obtain ⟨-, g', m', hmove, rfl⟩ := (exec_next_iff hg).1 h
  have hlt : s.turn < s.engines.length := (List.getElem?_eq_some_iff.1 hg).1
  obtain ⟨hmode, hkey, hbuf, hlen, hdir, hwritten⟩ := hmove.operands
  refine ⟨rfl, rfl, rfl, rfl, rfl, fun f hf => List.getElem?_set_ne (Ne.symm hf),
    ⟨g', List.getElem?_set_self hlt, hmode, hkey, hbuf, hlen, hdir, hwritten, hmove.registers⟩,
    fun a ha => hmove.read_ne ha, fun hn a => ?_⟩
  exact congrArg (Memory.read · a) (hmove.mem_eq hn)

/-- Settles O23: the step's move is a move with the other key (`ExecMove.withKey`). -/
theorem onlyTheFoldOfTheKeyCounts : Obligations.OnlyTheFoldOfTheKeyCounts := by
  intro s t i g key hg hk h
  obtain ⟨hw, g', m', hmove, rfl⟩ := (exec_next_iff hg).1 h
  have hlt : s.turn < s.engines.length := (List.getElem?_eq_some_iff.1 hg).1
  refine ⟨g', List.getElem?_set_self hlt, (exec_next_iff (g := { g with key := key }) ?_).2 ?_⟩
  · exact List.getElem?_set_self hlt
  · exact ⟨hw, _, m', hmove.withKey hk, by simp [State.moved, State.setEngine]⟩

end Sys2Proof
end

section
/-! PROOFS. A whole call under uninterrupted turns (43_transform_decode.md R170, R171), and that nothing of SALT and IDX reaches
its outcome. -/

namespace Sys2Proof

namespace Machine

theorem byteOut_of_not_high {i : Instr} (hi : isHigh i = false) (t : Tables) (salt salt' : Salt) (b : Byte) :
    byteOut t i salt b = byteOut t i salt' b := by
  cases i <;> first | rfl | cases hi

theorem byteOut_of_not_scans {i : Instr} (hi : scans i = false) (t : Tables) (salt : Salt) (b : Byte) :
    byteOut t i salt b = b := by
  cases i <;> first | rfl | cases hi

section Turn
variable {s : State} {e : Nat} {g : Engine} {i : Instr} {rest : List Event}

/-- A scheduled turn of a validating engine whose selector is legal is its VALIDATE step. -/
theorem step_validate (hs : s.schedule = .engine e :: rest) (hg : s.engines[e]? = some g) (hp : g.phase = .validating)
    (hd : decode s.params.encodeExt (g.sel s.params) = .ok i) :
    step s = validateStep { s with schedule := rest, turn := e } g := by
  obtain ⟨-, -, hw⟩ := Engine.decode_sel hd
  rw [step_turn hs hg (by simp [Engine.busy, hp, Phase.isBusy]), busyStep]
  simp only [hd]
  exact exec_validating hw hg hp

theorem step_finish (hs : s.schedule = .engine e :: rest) (hg : s.engines[e]? = some g) (hp : g.phase = .validating)
    (hd : decode s.params.encodeExt (g.sel s.params) = .ok i) (hv : validate s.params g = .finish) :
    step s = .next { s with schedule := rest, turn := e, engines := s.engines.set e g.finish } := by
  rw [step_validate hs hg hp hd]
  exact (validateStep_next_iff hp).2 ⟨_, .finish hp hv rfl rfl, rfl⟩

theorem step_enterScan (hs : s.schedule = .engine e :: rest) (hg : s.engines[e]? = some g) (hp : g.phase = .validating)
    (hd : decode s.params.encodeExt (g.sel s.params) = .ok i) (hv : validate s.params g = .scan)
    (hf : regionFits s.params g = true) (hr : plainRegion s.params g.region = true) :
    step s = .next { s with
      schedule := rest, turn := e, engines := s.engines.set e (g.enterScan (decide (g.mode = tagHigh))) } := by
  rw [step_validate hs hg hp hd]
  exact (validateStep_next_iff hp).2 ⟨_, .enter hp hv hf hr rfl rfl, rfl⟩

end Turn

/-- What a call that succeeds leaves (43_transform_decode.md R170, R171): `t` is `s` with the call of engine `e`, whose registers
were `g` and whose command is `i`, done. Of SALT and IDX in `g` it does not speak. -/
structure CallDone (s : State) (e : Nat) (g : Engine) (i : Instr) (t : State) (h : Engine) : Prop where
  params : t.params = s.params
  engines : t.engines = s.engines.set e h
  phase : h.phase = .done
  count : h.count = g.len
  err : h.err = g.err
  /-- Byte `k` of the buffer is the command's function of it, KEY and `k`; no other address changes. -/
  mem : ∀ a, t.mem.read a =
    if g.buf ≤ a ∧ a < g.buf + g.len then byteMap s.params.tables i g.key (a - g.buf) (s.mem.read a) else s.mem.read a

section Call
variable {s : State} {e : Nat} {g : Engine} {i : Instr} {rest : List Event}

/-- A call that does not scan, or of length 0, is done in one turn (41_mode_validator.md R145). -/
theorem run_immediate_call (hg : s.engines[e]? = some g) (hp : g.phase = .validating)
    (hd : decode s.params.encodeExt (g.sel s.params) = .ok i) (hbuf : g.len = 0 ∨ g.buf ≠ 0)
    (hlen : g.len ≤ maxLen s.params) (hi : scans i = false ∨ g.len = 0) (hs : s.schedule = turns e 1 ++ rest) :
    ∃ t h, core.run 1 s = .next t ∧ t.schedule = rest ∧ CallDone s e g i t h := by
  obtain ⟨htag, -, -⟩ := Engine.decode_sel hd
  have hv : validate s.params g = .finish := by
    refine (validate_finish_iff _ _).2 ⟨htag ▸ validateTag_of_command i, hbuf, hlen, hi.imp_left fun hn => ?_⟩
    rw [htag]
    exact (tag_eq_none i).2 hn
  refine ⟨{ s with schedule := rest, turn := e, engines := s.engines.set e g.finish }, g.finish, ?_, rfl, rfl, rfl, rfl,
    rfl, rfl, fun a => ?_⟩
  · rw [run_succ, step_finish hs hg hp hd hv]
    rfl
  · rcases hi with hn | h0
    · simp [byteMap, byteOut_of_not_scans hn]
    · rw [if_neg (by omega)]

/-- The salt with which byte `k` of a call is mapped is that of the closed form, if the command has one (42_salt_scheduler.md R154,
R155). -/
theorem byteOut_salt_of_enterScan (htag : g.mode = i.tag) (t : Tables) (k : Nat) (b : Byte) :
    byteOut t i (if isHigh i then (g.enterScan (decide (g.mode = tagHigh))).salt + BitVec.ofNat 16 k
      else (g.enterScan (decide (g.mode = tagHigh))).salt) b = byteMap t i g.key k b := by
  by_cases hh : isHigh i = true
  · have hm : g.mode = tagHigh := htag.trans ((tag_eq_high i).2 hh)
    simp [hh, hm, byteMap, saltAt]
  · exact byteOut_of_not_high (by simpa using hh) ..

/-- A call that scans is done in one turn and one for each byte (45_host_commands.md R226). -/
theorem run_scanning_call (hg : s.engines[e]? = some g) (hp : g.phase = .validating)
    (hd : decode s.params.encodeExt (g.sel s.params) = .ok i) (hbuf : g.buf ≠ 0) (h0 : 0 < g.len)
    (hlen : g.len ≤ maxLen s.params) (hi : scans i = true) (hf : g.buf + g.len ≤ addrSpace s.params)
    (hr : plainRegion s.params g.region = true) (hs : s.schedule = turns e (1 + g.len) ++ rest) :
    ∃ t h, core.run (1 + g.len) s = .next t ∧ t.schedule = rest ∧ CallDone s e g i t h := by
  have hlt : e < s.engines.length := (List.getElem?_eq_some_iff.1 hg).1
  obtain ⟨htag, -, -⟩ := Engine.decode_sel hd
  have hv : validate s.params g = .scan := by
    refine (validate_scan_iff _ _).2 ⟨htag ▸ validateTag_of_command i, h0, hbuf, hlen, fun hn => ?_⟩
    rw [(tag_eq_none i).1 (htag ▸ hn)] at hi
    cases hi
  rw [Nat.add_comm] at hs ⊢
  have henter := step_enterScan hs hg hp hd hv (by simpa [regionFits] using hf) hr
  obtain ⟨t, h, hrun, hsched, hparams, hengines, -, herr, hphase, hcount, hmem⟩ :=
    run_bytes e i hi rest g.len
      { s with
        schedule := turns e g.len ++ rest, turn := e
        engines := s.engines.set e (g.enterScan (decide (g.mode = tagHigh))) }
      (g.enterScan (decide (g.mode = tagHigh))) rfl (List.getElem?_set_self hlt) (.inr rfl) hd hbuf (Nat.zero_add _).le hf hr
  refine ⟨t, h, ?_, hsched, hparams, ?_, ?_, ?_, herr, fun a => ?_⟩
  · rw [run_succ, henter]
    exact hrun
  · simpa using hengines
  · simpa [h0.ne'] using hphase
  · simpa [h0.ne'] using hcount
  · rw [hmem a, byteOut_salt_of_enterScan htag]
    rfl

/-- A call whose checks pass, given its turns, succeeds. -/
theorem run_call (hg : s.engines[e]? = some g) (hp : g.phase = .validating)
    (hd : decode s.params.encodeExt (g.sel s.params) = .ok i) (hbuf : g.len = 0 ∨ g.buf ≠ 0)
    (hlen : g.len ≤ maxLen s.params)
    (hscan : scans i = true → 0 < g.len → g.buf + g.len ≤ addrSpace s.params ∧ plainRegion s.params g.region = true)
    (hs : s.schedule = turns e (callSteps i g.len) ++ rest) :
    ∃ t h, core.run (callSteps i g.len) s = .next t ∧ t.schedule = rest ∧ CallDone s e g i t h := by
  by_cases hi : scans i = true
  · rw [callSteps, if_pos hi] at hs ⊢
    rcases Nat.eq_zero_or_pos g.len with h0 | h0
    · rw [h0] at hs ⊢
      exact run_immediate_call hg hp hd hbuf hlen (.inr h0) hs
    · obtain ⟨hf, hr⟩ := hscan hi h0
      exact run_scanning_call hg hp hd (hbuf.resolve_left h0.ne') h0 hlen hi hf hr hs
  · rw [callSteps, if_neg hi] at hs ⊢
    exact run_immediate_call hg hp hd hbuf hlen (.inl (by simpa using hi)) hs

end Call

end Machine

open Machine

/-- Settles O34: both runs end as `CallDone` says, which does not speak of SALT and IDX. -/
theorem nothingSurvivesACall : Obligations.NothingSurvivesACall := by
  intro s e g i salt idx rest _ hg hp hd hbuf hlen _ hscan hs
  have hlt : e < s.engines.length := (List.getElem?_eq_some_iff.1 hg).1
  obtain ⟨t, h, hrun, -, ht⟩ := run_call hg hp hd hbuf hlen hscan hs
  obtain ⟨u, l, hrun', -, hu⟩ :=
    run_call (s := { s with engines := s.engines.set e { g with salt := salt, idx := idx } })
      (g := { g with salt := salt, idx := idx }) (List.getElem?_set_self hlt) hp hd hbuf hlen hscan hs
  refine ⟨t, u, h, l, hrun, hrun', fun a => (ht.mem a).trans (hu.mem a).symm, ?_, ?_, ht.count.trans hu.count.symm,
    ht.err.trans hu.err.symm, ht.phase.trans hu.phase.symm⟩
  · rw [ht.engines]
    exact List.getElem?_set_self hlt
  · rw [hu.engines]
    exact List.getElem?_set_self (by simpa using hlt)

end Sys2Proof
end

section
/-! PROOFS. What a step leaves alone: the operands of a running call, and everything outside the engine whose turn it is and its
buffer. -/

namespace Sys2Proof

namespace Machine

section Frozen
variable {s t : State} {ev : Option Event} {e : Nat} {g h : Engine}

/-- An engine after engine `f` was replaced by `g'` is `g'`, at `f`, or is as it was. -/
theorem getElem?_set_cases {gs : List Engine} {f : Nat} {g' : Engine} (hh : (gs.set f g')[e]? = some h) (hg : gs[e]? = some g) :
    (f = e ∧ h = g') ∨ h = g := by
  by_cases hfe : f = e
  · subst hfe
    rw [List.getElem?_set_self (List.getElem?_eq_some_iff.1 hg).1, Option.some_inj] at hh
    exact .inl ⟨rfl, hh.symm⟩
  · rw [List.getElem?_set_ne hfe, hg, Option.some_inj] at hh
    exact .inr hh.symm

/-- What a step makes of a busy engine: nothing, unless it is its own engine step or a reset. -/
theorem StepKind.busy_engine (hk : StepKind ev s t) (hg : s.engines[e]? = some g) (hb : g.busy = true)
    (hh : t.engines[e]? = some h) : h = g ∨ EngineMove s.params s.mem g h t.mem ∨ ev = some .reset := by
  have other : ∀ {f g₀ g'}, s.engines[f]? = some g₀ → g₀.busy = false → t.engines = s.engines.set f g' → h = g := by
    intro f g₀ g' hf hb₀ he
    rcases getElem?_set_cases (he ▸ hh) hg with ⟨rfl, -⟩ | hhg
    · rw [hg, Option.some_inj] at hf
      rw [hf, hb₀] at hb
      cases hb
    · exact hhg
  cases hk with
  | quiet he hm => rw [he, hg, Option.some_inj] at hh; exact .inl hh.symm
  | memWrite a v ha ho he hm => rw [he, hg, Option.some_inj] at hh; exact .inl hh.symm
  | operand f g₀ n v hf hb₀ hn he hm => exact .inl (other hf hb₀ he)
  | direction f g₀ v hf hb₀ hv he hm => exact .inl (other hf hb₀ he)
  | start f g₀ v hf hb₀ hv hw ho hev he hm => exact .inl (other hf hb₀ he)
  | engine f g₀ g' hf hb₀ hmove he =>
    rcases getElem?_set_cases (he ▸ hh) hg with ⟨rfl, rfl⟩ | hhg
    · rw [hg, Option.some_inj] at hf
      exact .inr (.inl (hf ▸ hmove))
    · exact .inl hhg
  | reset hev he hm => exact .inr (.inr hev)

end Frozen

section Isolation
variable {p : Params} {m m' : Memory} {g g' : Engine}

theorem regionHas_iff {r : Region} {a : Nat} : regionHas r a = true ↔ r.base ≤ a ∧ a < r.base + r.size := by
  simp [regionHas]

/-- The region of a buffer that is not null, address by address (20_memory.md R62). -/
theorem Engine.regionHas_region (hb : g.buf ≠ nullAddr) (a : Nat) :
    regionHas g.region a = true ↔ g.buf ≤ a ∧ a < g.buf + g.len := by
  rw [regionHas_iff]
  simp [Engine.region, hb]

theorem regionsMeet_of_common {r q : Region} {a : Nat} (hr : regionHas r a = true) (hq : regionHas q a = true) :
    regionsMeet r q = true := by
  rw [regionHas_iff] at hr hq
  simp only [regionsMeet, Bool.and_eq_true, decide_eq_true_eq]
  omega

/-- The byte of a scanning engine is in its region (45_host_commands.md R226: IDX < LEN). -/
theorem byteAddr_in_region (hi : EngineInv p g) (hp : g.phase = .scanning) :
    regionHas g.region g.byteAddr = true := by
  rw [Engine.regionHas_region (hi.scan_buf hp), Engine.byteAddr]
  have := hi.scan_idx hp
  omega

/-- An engine step reads alike at every address outside the engine's region (20_memory.md R67). -/
theorem EngineMove.read_outside (h : EngineMove p m g g' m') (hi : EngineInv p g) {a : Nat}
    (ha : regionHas g.region a ≠ true) : m'.read a = m.read a := by
  obtain rfl | ⟨hp, -, v, rfl⟩ := h.mem_eq_or_write
  · rfl
  · refine Memory.read_write_ne _ v fun heq => ha ?_
    rw [heq]
    exact byteAddr_in_region hi hp

end Isolation

/-- The three ways for engine `e` to be given the turn (45_host_commands.md R220): scheduled, under WAIT, or with nothing scheduled
as the first busy engine. -/
def GivenTurn (s : State) (e : Nat) : Prop :=
  (∃ rest, s.schedule = .engine e :: rest) ∨ (∃ rest, s.schedule = .wait e :: rest) ∨
    (s.schedule = [] ∧ s.engines.findIdx? (fun h => h.busy) = some e)

section GivenTurn
variable {s t : State} {e : Nat} {g : Engine}

/-- An engine that is not busy and is given the turn leaves the engines and MEM alone (45_host_commands.md R228). -/
theorem GivenTurn.not_busy (hturn : GivenTurn s e) (hg : s.engines[e]? = some g) (hb : g.busy = false)
    (h : step s = .next t) : t.engines = s.engines ∧ t.mem = s.mem := by
  unfold step agentsStep at h
  rcases hturn with ⟨rest, hs⟩ | ⟨rest, hs⟩ | ⟨hs, hf⟩
  · simp only [hs, runEvent, engineTurn, hg, hb] at h
    cases h
    exact ⟨rfl, rfl⟩
  · simp only [hs, runEvent, waitStep, hg, hb, Bool.false_eq_true, if_false] at h
    split at h <;> cases h <;> exact ⟨rfl, rfl⟩
  · obtain ⟨hlt, hbusy, -⟩ := List.findIdx?_eq_some_iff_getElem.1 hf
    rw [List.getElem?_eq_getElem hlt, Option.some_inj] at hg
    rw [hg, hb] at hbusy
    cases hbusy

/-- A busy engine that is given the turn makes one of the moves, and the other engines stay. -/
theorem GivenTurn.busy (hturn : GivenTurn s e) (hg : s.engines[e]? = some g) (hb : g.busy = true) (h : step s = .next t) :
    ∃ g', EngineMove s.params s.mem g g' t.mem ∧ t.engines = s.engines.set e g' := by
  rcases hturn with ⟨rest, hs⟩ | ⟨rest, hs⟩ | ⟨hs, hf⟩
  · rw [step_turn hs hg hb] at h
    obtain ⟨g', m', hmove, rfl⟩ := busyStep_next (s := { s with schedule := rest }) hg hb h
    exact ⟨g', hmove, rfl⟩
  · rw [step_wait hs hg hb] at h
    obtain ⟨g', m', hmove, rfl⟩ := busyStep_next hg hb h
    exact ⟨g', hmove, rfl⟩
  · rw [step_unscheduled hs hf hg hb] at h
    obtain ⟨g', m', hmove, rfl⟩ := busyStep_next hg hb h
    exact ⟨g', hmove, rfl⟩

end GivenTurn

end Machine

open Machine

/-- Settles O50: a busy engine changes by its own engine step only, and that keeps the operands (`EngineMove.operands`). -/
theorem operandsFrozenWhileBusy : Obligations.OperandsFrozenWhileBusy := by
  intro s t e g h hstep hg hh
  obtain ⟨hkind, hparams⟩ := step_next hstep
  refine ⟨hparams, fun hb hnr => ?_⟩
  rcases hkind.busy_engine hg hb hh with rfl | hmove | hreset
  · exact ⟨rfl, rfl, rfl, rfl, rfl⟩
  · exact hmove.operands
  · exact absurd hreset hnr

/-- Settles O52: an engine step stays within its region (`EngineMove.read_outside`), which meets that of no other running call. -/
theorem engineStepsAreIsolated : Obligations.EngineStepsAreIsolated := by
  intro s t e g hi hg hturn hstep
  by_cases hb : g.busy = true
  · obtain ⟨g', hmove, he⟩ := GivenTurn.busy hturn hg hb hstep
    have houtside : ∀ a, regionHas g.region a ≠ true → t.mem.read a = s.mem.read a :=
      fun a ha => hmove.read_outside (hi.engine hg) ha
    refine ⟨fun a ha => houtside a fun hin => ?_, fun f hf => ?_, fun f h a hf hh hbh hbuf h1 h2 => houtside a fun hin => ?_⟩
    · simp [regionHas_iff, Engine.region] at hin
      split at hin <;> omega
    · rw [he]
      exact List.getElem?_set_ne (Ne.symm hf)
    · have hmeet := regionsMeet_of_common hin ((Engine.regionHas_region hbuf a).2 ⟨h1, h2⟩)
      rw [hi.disjoint e f g h hg hh (Ne.symm hf) hb hbh] at hmeet
      cases hmeet
  · obtain ⟨he, hm⟩ := GivenTurn.not_busy hturn hg (by simpa using hb) hstep
    rw [he, hm]
    exact ⟨fun _ _ => rfl, fun _ _ => rfl, fun _ _ _ _ _ _ _ _ _ => rfl⟩

end Sys2Proof
end

section
/-! PROOFS. What the host sees of the register block: of a busy engine, and right after reset. -/

namespace Sys2Proof

namespace Machine

theorem Engine.ctrl_of_dir_false {p : Params} {g : Engine} (hd : g.dir = false) : g.ctrl p = 0 := by
  simp [Engine.ctrl, Engine.dirBit, hd]

section HostEvents
variable {s : State} {e n v : Nat} {g : Engine} {rest : List Event}

theorem step_regWrite (hs : s.schedule = .regWrite e n v :: rest) : step s = regWrite { s with schedule := rest } e n v := by
  simp [step, agentsStep, hs, runEvent]

theorem step_regRead (hs : s.schedule = .regRead e n :: rest) : step s = regRead { s with schedule := rest } e n := by
  simp [step, agentsStep, hs, runEvent]

/-- While busy a write to registers 0 to 4 is ignored (10_state.md R38). -/
theorem regWrite_busy (hg : s.engines[e]? = some g) (hb : g.busy = true) (hn : n ≤ 4) : regWrite s e n v = .next s := by
  rw [regWrite, hg]
  simp only [hb, if_true]
  rw [if_neg (by omega), if_neg (by omega)]

/-- A START on an engine that is not busy and lacks an operand is refused (70_reset_and_hazards.md R293). -/
theorem regWrite_start_unwritten (hg : s.engines[e]? = some g) (hb : g.busy = false) (hv : v.testBit 0 = true)
    (hw : g.operandsWritten = false) : regWrite s e 4 v = .refused .operandNeverWritten := by
  simp [regWrite, hg, hb, ctrlWrite, hw, hv]

theorem step_read_ctrl (hs : s.schedule = .regRead e 4 :: rest) (hg : s.engines[e]? = some g) :
    step s = .next { s with schedule := rest, hostData := g.ctrl s.params } := by
  simp [step_regRead hs, regRead, hg, State.answer]

theorem step_read_status (hs : s.schedule = .regRead e 5 :: rest) (hg : s.engines[e]? = some g) :
    step s = .next { s with schedule := rest, hostData := g.phase.code } := by
  simp [step_regRead hs, regRead, hg, State.answer]

theorem step_read_count (hs : s.schedule = .regRead e 6 :: rest) (hg : s.engines[e]? = some g) :
    step s = .next { s with schedule := rest, hostData := g.count } := by
  simp [step_regRead hs, regRead, hg, State.answer]

theorem step_read_err (hs : s.schedule = .regRead e 7 :: rest) (hg : s.engines[e]? = some g) :
    step s = .next { s with schedule := rest, hostData := g.err.code } := by
  simp [step_regRead hs, regRead, hg, State.answer]

/-- A read of a register that exists answers (45_host_commands.md R222). -/
theorem regRead_answers (hg : s.engines[e]? = some g) (hn : n ≤ 7) : ∃ t, regRead s e n = .next t := by
  rw [regRead, hg]
  match n with
  | 0 | 1 | 2 | 3 | 4 | 5 | 6 | 7 => exact ⟨_, rfl⟩
  | _ + 8 => omega

end HostEvents

end Machine

open Machine

section Busy
variable {p : Params} {g : Engine}

theorem EngineInv.count_of_busy (hi : EngineInv p g) (hb : g.busy = true) : g.count = 0 :=
  hi.count_zero fun h => by simp [Engine.busy, h, Phase.isBusy] at hb

theorem EngineInv.err_of_busy (hi : EngineInv p g) (hb : g.busy = true) : g.err = .noError :=
  hi.err_of_ne_failed fun h => by simp [Engine.busy, h, Phase.isBusy] at hb

end Busy

/-- Settles O38: COUNT and ERR of a busy engine are 0 by the invariant. -/
theorem busyRegisterAccess : Obligations.BusyRegisterAccess := by
  intro s e g rest hi hg hb
  have hinv := hi.engine hg
  refine ⟨fun n v hn hs => ?_, fun n hn hs => ?_, ?_⟩
  · rw [step_regWrite hs]
    exact regWrite_busy hg hb hn
  · rw [step_regRead hs]
    exact regRead_answers hg hn
  · rintro n (rfl | rfl) hs
    · rw [step_read_count hs hg, hinv.count_of_busy hb]
    · rw [step_read_err hs hg, hinv.err_of_busy hb]
      rfl

/-- Settles O46: every engine of the reset state is `Engine.reset`. -/
theorem resetValues : Obligations.ResetValues := by
  intro p n e rest he
  have hg : ∀ l, { State.resetWith p n with schedule := l }.engines[e]? = some Engine.reset := by
    simp [State.resetWith, he]
  refine ⟨?_, fun v hv => ?_⟩
  · rintro r (rfl | rfl | rfl | rfl)
    · rw [step_read_ctrl rfl (hg _), Engine.ctrl_of_dir_false rfl]
    · exact step_read_status rfl (hg _)
    · exact step_read_count rfl (hg _)
    · exact step_read_err rfl (hg _)
  · rw [step_regWrite rfl]
    exact regWrite_start_unwritten (hg rest) rfl hv rfl

end Sys2Proof
end

section
/-! PROOFS. What has no meaning and is refused: a scan of a region that wraps or is not plain memory, and the accesses and STARTs of
the host that touch the region of a running call (20_memory.md R71, R78, R79). -/

namespace Sys2Proof

namespace Machine

section RefusedScan
variable {s : State} {g : Engine} {i : Instr}

/-- In VALIDATING the selected command is its VALIDATE step. -/
theorem exec_of_selected (hsel : Selected s i g) (hp : g.phase = .validating) : exec i s = validateStep s g := by
  obtain ⟨hg, hd⟩ := hsel
  obtain ⟨-, -, hw⟩ := Engine.decode_sel hd
  exact exec_validating hw hg hp

/-- The tag checks of `validate_scan_iff` in terms of the selected command (41_mode_validator.md R146). -/
theorem validate_scan_iff_of_selected (hsel : Selected s i g) :
    validate s.params g = .scan ↔ scans i = true ∧ 0 < g.len ∧ g.buf ≠ nullAddr ∧ g.len ≤ maxLen s.params := by
  obtain ⟨-, hd⟩ := hsel
  obtain ⟨htag, -, -⟩ := Engine.decode_sel hd
  have hscan : g.mode ≠ tagNone ↔ scans i = true := by rw [htag, Ne, tag_eq_none, Bool.not_eq_false]
  have hlegal : validateTag g.mode = true := htag ▸ validateTag_of_command i
  rw [validate_scan_iff, hscan]
  tauto

/-- A VALIDATE step that does not enter the scan answers a next state. -/
theorem validateStep_of_not_scan (hv : validate s.params g ≠ .scan) : ∃ t, validateStep s g = .next t := by
  unfold validateStep
  cases h : validate s.params g with
  | fail k => exact ⟨_, rfl⟩
  | finish => exact ⟨_, rfl⟩
  | scan => exact absurd h hv

theorem validateStep_of_wraps (hv : validate s.params g = .scan) (hf : regionFits s.params g = false) :
    validateStep s g = .refused .regionWraps := by
  simp [validateStep, hv, hf]

theorem validateStep_of_not_plain (hv : validate s.params g = .scan) (hf : regionFits s.params g = true)
    (hr : plainRegion s.params g.region = false) : validateStep s g = .refused .notPlainMemory := by
  simp [validateStep, hv, hf, hr]

end RefusedScan

section HostAccess
variable {s t : State} {a : Nat}

theorem hostAccess_of_no_address (ha : addrSpace s.params ≤ a) : hostAccess s a t = .fault (.noSuchAddress a) := by
  simp [hostAccess, ha]

theorem hostAccess_of_owned (ha : a < addrSpace s.params) (ho : s.owned a = true) :
    hostAccess s a t = .refused .bufferOwned := by
  simp [hostAccess, ha.not_ge, ho]

theorem hostAccess_of_not_plain (ha : a < addrSpace s.params) (ho : s.owned a = false)
    (hp : plainAddr s.params a = false) : hostAccess s a t = .refused .notPlainMemory := by
  simp [hostAccess, ha.not_ge, ho, hp]

theorem hostAccess_of_plain (ha : a < addrSpace s.params) (ho : s.owned a = false)
    (hp : plainAddr s.params a = true) : hostAccess s a t = .next t := by
  simp [hostAccess, ha.not_ge, ho, hp]

theorem step_memRead {rest : List Event} (hs : s.schedule = .memRead a :: rest) :
    step s = hostAccess { s with schedule := rest } a { s with schedule := rest, hostData := (s.mem.read a).toNat } := by
  simp [step, agentsStep, hs, runEvent, hostMemRead, State.answer]

theorem step_memWrite {v : Byte} {rest : List Event} (hs : s.schedule = .memWrite a v :: rest) :
    step s = hostAccess { s with schedule := rest } a { s with schedule := rest, mem := s.mem.write a v } := by
  simp [step, agentsStep, hs, runEvent, hostMemWrite]

/-- Whether a host access is allowed is asked of reads and writes alike. -/
theorem step_memAccess {v : Byte} {rest : List Event}
    (hs : s.schedule = .memRead a :: rest ∨ s.schedule = .memWrite a v :: rest) :
    ∃ u, step s = hostAccess { s with schedule := rest } a u := by
  rcases hs with hs | hs
  · exact ⟨_, step_memRead hs⟩
  · exact ⟨_, step_memWrite hs⟩

end HostAccess

section Ownership
variable {s : State} {g h : Engine} {a : Nat}

/-- A running call with a buffer owns every byte of it (20_memory.md R71). -/
theorem owned_of_running (hh : h ∈ s.engines) (hb : h.busy = true) (hbuf : h.buf ≠ nullAddr) (h1 : h.buf ≤ a)
    (h2 : a < h.buf + h.len) : s.owned a = true :=
  List.any_eq_true.2 ⟨h, hh, by simp [hb, (Engine.regionHas_region hbuf a).2 ⟨h1, h2⟩]⟩

/-- A region that shares a byte with that of a running call overlaps it (45_host_commands.md R232). -/
theorem overlapsRunning_of_common (hh : h ∈ s.engines) (hb : h.busy = true) (hha : regionHas h.region a = true)
    (hga : regionHas g.region a = true) : s.overlapsRunning g = true :=
  List.any_eq_true.2 ⟨h, hh, by simp [hb, regionsMeet_of_common hha hga]⟩

theorem regWrite_start_overlap {e v : Nat} (hg : s.engines[e]? = some g) (hb : g.busy = false)
    (hv : v.testBit 0 = true) (hw : g.operandsWritten = true) (ho : s.overlapsRunning g = true) :
    regWrite s e 4 v = .refused .bufferOwned := by
  simp [regWrite, hg, hb, ctrlWrite, hv, hw, ho]

end Ownership

end Machine

open Machine

/-- Settles O14: a call that passes the checks with a wrapping region stops at the entry to the scan; the VALIDATE step of any other
call does not get there. -/
theorem wrappingRegionRefused : Obligations.WrappingRegionRefused := by
  refine ⟨fun s i g hsel hp hi h0 hbuf hlen hwrap => ?_, fun s i g hsel hp hno => ?_⟩
  · rw [exec_of_selected hsel hp]
    exact validateStep_of_wraps ((validate_scan_iff_of_selected hsel).2 ⟨hi, h0, hbuf, hlen⟩) (decide_eq_false hwrap.not_ge)
  · rw [exec_of_selected hsel hp]
    refine validateStep_of_not_scan fun hv => ?_
    obtain ⟨hi, h0, hbuf, hlen⟩ := (validate_scan_iff_of_selected hsel).1 hv
    rcases hno with hn | hn | hn | hn
    · simp [hi] at hn
    · exact h0.ne' hn
    · exact hbuf hn
    · exact hn.not_ge hlen

/-- Settles O15: were the region plain, so would be its byte `a` (`plain_of_region`). -/
theorem unbackedRegionRefused : Obligations.UnbackedRegionRefused := by
  intro s i g r a hsel hp hi hbuf hlen hfits hr hra1 hra2 hga1 hga2
  have hbad : plainAddr s.params a = false := by
    have : s.params.unbacked.any (fun q => regionHas q a) = true :=
      List.any_eq_true.2 ⟨r, hr, regionHas_iff.2 ⟨hra1, hra2⟩⟩
    simp [plainAddr, this]
  rw [exec_of_selected hsel hp]
  refine validateStep_of_not_plain ((validate_scan_iff_of_selected hsel).2 ⟨hi, by omega, hbuf, hlen⟩)
    (decide_eq_true hfits) ?_
  by_contra hpl
  simp [plain_of_region (by simpa using hpl) hbuf hga1 hga2] at hbad

/-- Settles O42: what `hostAccess` asks first and last. -/
theorem hostAccessNeedsMemory : Obligations.HostAccessNeedsMemory := by
  intro s a v rest hs
  obtain ⟨u, hstep⟩ := step_memAccess hs
  rw [hstep]
  exact ⟨fun ha => hostAccess_of_no_address ha, fun ha ho hp => hostAccess_of_not_plain ha ho hp⟩

/-- Settles O41: a byte of a running call's buffer is owned (`owned_of_running`), and a region that shares it overlaps
(`overlapsRunning_of_common`). -/
theorem runningCallOwnsItsRegion : Obligations.RunningCallOwnsItsRegion := by
  intro s rest
  refine ⟨fun h a hh hb hbuf h1 h2 ha => ?_, ?_, fun a ha hp ho => ⟨fun hs => ?_, fun v hs => ?_⟩⟩
  · have howned : s.owned a = true := owned_of_running hh hb hbuf h1 h2
    exact ⟨fun hs => (step_memRead hs).trans (hostAccess_of_owned ha howned),
      fun v hs => (step_memWrite hs).trans (hostAccess_of_owned ha howned)⟩
  · intro h g e v a hh hb hg hbg hbuf hgbuf h1 h2 hg1 hg2 hs hv hw
    have hoverlap : s.overlapsRunning g = true :=
      overlapsRunning_of_common hh hb ((Engine.regionHas_region hbuf a).2 ⟨h1, h2⟩)
        ((Engine.regionHas_region hgbuf a).2 ⟨hg1, hg2⟩)
    rw [step_regWrite hs]
    exact regWrite_start_overlap hg hbg hv hw hoverlap
  · rw [step_memRead hs]
    exact hostAccess_of_plain ha ho hp
  · refine ⟨_, (step_memWrite hs).trans (hostAccess_of_plain ha ho hp), rfl, fun b => ?_⟩
    simp only [Memory.read_write, eq_comm]

end Sys2Proof
end

section
/-! PROOFS. The encoding (30_encoding.md R90 to R100): the selectors of the six commands and no others decode, a selector's two bytes
decode to what was encoded, and the register writes of CALL program the command they stand for. -/

namespace Sys2Proof

section Selectors
variable {ext : Bool} {sel : Sel} {i : Instr}

/-- The decoder inverts the encoder, and reads nothing else as a command (R93). -/
theorem decode_eq_ok_iff : decode ext sel = .ok i ↔ i.wellFormed ext = true ∧ sel = encode i := by
  constructor
  · intro h
    obtain ⟨hmode, hdir, hw⟩ := decode_ok h
    exact ⟨hw, by rw [encode, ← hdir, ← hmode, selOf_fields]⟩
  · rintro ⟨hw, rfl⟩
    exact decode_selOf hw

/-- The decode commands exist on every engine (R93). -/
theorem decode_eq_ok_iff_of_decode_command (hi : i.isEncode = false) : decode ext sel = .ok i ↔ sel = encode i := by
  simp [decode_eq_ok_iff, Instr.wellFormed, hi]

/-- The encode commands need ENCODE_EXT (R93). -/
theorem decode_eq_ok_iff_of_encode_command (hi : i.isEncode = true) :
    decode ext sel = .ok i ↔ ext = true ∧ sel = encode i := by
  simp [decode_eq_ok_iff, Instr.wellFormed, hi]

/-- A tag above the three is illegal in each direction the engine has (R94). -/
theorem decode_of_illegal_tag (htag : 2 < (selMode sel).toNat) (hdir : selDir sel = false ∨ ext = true) :
    decode ext sel = .error .illegalTag := by
  have hne : ∀ b : Byte, b.toNat ≤ 2 → selMode sel ≠ b := by
    rintro b hb rfl
    omega
  have hnone := hne tagNone (by decide)
  have hcomp := hne tagComp (by decide)
  have hhigh := hne tagHigh (by decide)
  unfold decode
  rcases hdir with hdir | rfl
  · simp [hdir, hnone, hcomp, hhigh]
  · simp [hnone, hcomp, hhigh]

/-- The direction bit marks the encode commands (R93). -/
theorem Instr.dir_eq_isEncode (i : Instr) : i.dir = i.isEncode := by cases i <;> rfl

/-- An engine has every decode command, and the encode commands exactly with ENCODE_EXT. -/
theorem Instr.ext_and_dir (h : i.wellFormed ext = true) : (ext && i.dir) = i.dir := by
  rw [Instr.dir_eq_isEncode]
  cases ext <;> simp_all [Instr.wellFormed]

end Selectors

section SelectorBytes

/-- The low byte of a selector is its field MODE. -/
theorem selMode_eq_ofNat (sel : Sel) : selMode sel = BitVec.ofNat 8 sel.toNat := by
  apply BitVec.eq_of_toNat_eq
  simp [selMode]

/-- Bit 0 of a selector's second byte is its field DIR. -/
theorem getLsbD_zero_highByte (sel : Sel) : (BitVec.ofNat 8 (sel.toNat / 256)).getLsbD 0 = selDir sel := by
  rw [selDir, BitVec.getLsbD_ofNat, BitVec.getLsbD, show 256 = 2 ^ 8 from rfl, Nat.testBit_div_two_pow]
  rfl

/-- Two bytes of a selector are decoded as the selector. -/
theorem decodeBytes_sel {ext : Bool} {sel : Sel} {i : Instr} (h : decode ext sel = .ok i) (rest : List Byte) :
    decodeBytes ext (selMode sel :: BitVec.ofNat 8 (sel.toNat / 256) :: rest) = .ok (i, rest) := by
  rw [decodeBytes, getLsbD_zero_highByte, selOf_fields, h]

/-- A word of the opcode table stands for the bytes of the selector it numbers. -/
theorem tableWordBytes_encode (i : Instr) : tableWordBytes 16 (encode i).toNat = encodeBytes i := by
  have hlt : (encode i).toNat < 2 ^ 16 := by have := (encode i).isLt; omega
  rw [tableWordBytes, Nat.mod_eq_of_lt hlt, encodeBytes, selMode_eq_ofNat]

theorem decodeBytes_encodeBytes {ext : Bool} {i : Instr} (hw : i.wellFormed ext = true) (rest : List Byte) :
    decodeBytes ext (encodeBytes i ++ rest) = .ok (i, rest) :=
  decodeBytes_sel (decode_selOf hw) rest

theorem decodeTableWord_encode (i : Instr) : decodeTableWord 16 (encode i).toNat = some i := by
  have hw : i.wellFormed true = true := by simp [Instr.wellFormed]
  have h := decodeBytes_encodeBytes hw []
  rw [List.append_nil] at h
  rw [decodeTableWord, tableWordBytes_encode, h]

end SelectorBytes

namespace Machine

section HostSteps
variable {s t : State} {e n v k : Nat} {g : Engine} {rest : List Event}

theorem run_of_step (h : step s = .next t) : core.run (k + 1) s = core.run k t := by
  rw [run_succ, h]

/-- A WAIT on a call that has ended answers STATUS and leaves the schedule (30_encoding.md R98). -/
theorem step_wait_ended (hs : s.schedule = .wait e :: rest) (hg : s.engines[e]? = some g) (hb : g.busy = false)
    (hp : g.phase ≠ .idle) : step s = .next { s with schedule := rest, hostData := g.phase.code } := by
  simp [step, agentsStep, hs, runEvent, waitStep, hg, hb, hp, State.answer]

/-- An operand write on an engine that is not busy is accepted (45_host_commands.md R221). -/
theorem step_operand_write (hs : s.schedule = .regWrite e n v :: rest) (hg : s.engines[e]? = some g) (hb : g.busy = false)
    (hn : n < 4) :
    step s = .next { s with engines := s.engines.set e (g.writeOperand s.params n v), schedule := rest } := by
  simp [step_regWrite hs, regWrite, hg, hb, hn.ne, hn.not_gt, show ¬ 7 < n by omega, State.setEngine]

/-- A START with its operands written and a region no running call has is accepted (45_host_commands.md R223). -/
theorem step_start (hs : s.schedule = .regWrite e 4 v :: rest) (hg : s.engines[e]? = some g) (hb : g.busy = false)
    (hv : v.testBit 0 = true) (hw : g.operandsWritten = true) (ho : s.overlapsRunning g = false) :
    step s = .next { s with engines := s.engines.set e (g.setDir s.params v).accept, schedule := rest } := by
  have ho' : { s with schedule := rest }.overlapsRunning g = false := ho
  simp [step_regWrite hs, regWrite, hg, hb, ctrlWrite, hv, hw, ho', State.setEngine]

end HostSteps

section OperandWrites

/-- What a list of operand writes, register numbers with their values, makes of an engine. -/
def Engine.writeOperands (p : Params) (g : Engine) (ws : List (Nat × Nat)) : Engine :=
  ws.foldl (fun h w => h.writeOperand p w.1 w.2) g

/-- A list of operand writes as events of the schedule. -/
def operandEvents (e : Nat) (ws : List (Nat × Nat)) : List Event := ws.map fun w => .regWrite e w.1 w.2

theorem Engine.busy_writeOperand (p : Params) (g : Engine) (n v : Nat) : (g.writeOperand p n v).busy = g.busy := by
  obtain ⟨-, hphase, -⟩ := Engine.writeOperand_keeps p g n v
  rw [Engine.busy, hphase, Engine.busy]

/-- Operand writes on an engine that is not busy are all accepted, one step each. -/
theorem run_operand_writes {e k : Nat} {ws : List (Nat × Nat)} (hn : ∀ w ∈ ws, w.1 < 4) {s : State} {g : Engine}
    {rest : List Event} (hs : s.schedule = operandEvents e ws ++ rest) (hg : s.engines[e]? = some g) (hb : g.busy = false) :
    core.run (k + ws.length) s =
      core.run k { s with engines := s.engines.set e (g.writeOperands s.params ws), schedule := rest } := by
  induction ws generalizing s g with
  | nil =>
    obtain ⟨hlt, rfl⟩ := List.getElem?_eq_some_iff.1 hg
    have hs : s.schedule = rest := hs
    subst hs
    simp [Engine.writeOperands]
  | cons w ws ih =>
    obtain ⟨hlt, -⟩ := List.getElem?_eq_some_iff.1 hg
    rw [List.forall_mem_cons] at hn
    have hstep := step_operand_write hs hg hb hn.1
    rw [List.length_cons, ← Nat.add_assoc, run_of_step hstep,
      ih hn.2 rfl (List.getElem?_set_self hlt) ((Engine.busy_writeOperand ..).trans hb)]
    simp only [List.set_set]
    rfl

end OperandWrites

section Call
variable {p : Params} {g : Engine} {i : Instr} {key : Key} {buf len : Nat}

/-- The four operand writes of CALL (30_encoding.md R100). -/
def callOperands (i : Instr) (key : Key) (buf len : Nat) : List (Nat × Nat) :=
  [(0, i.tag.toNat), (1, key.toNat), (2, buf), (3, len)]

/-- The value CALL writes to CTRL: START, or START.ENC for an encode command (R100). -/
def startWord (i : Instr) : Nat := if i.dir then 3 else 1

/-- The engine as the operand writes of CALL leave it. -/
def Engine.withOperands (g : Engine) (i : Instr) (key : Key) (buf len : Nat) : Engine :=
  { g with
    mode := i.tag, key := key, buf := buf, len := len
    written := { mode := true, key := true, buf := true, len := true } }

theorem hostCall_eq (e : Nat) :
    hostCall e i key buf len = operandEvents e (callOperands i key buf len) ++ [.regWrite e 4 (startWord i), .wait e] := by
  unfold hostCall startWord
  split <;> rfl

theorem startWord_bit_zero (i : Instr) : (startWord i).testBit 0 = true := by
  unfold startWord
  split <;> rfl

theorem startWord_bit_one (i : Instr) : (startWord i).testBit 1 = i.dir := by
  unfold startWord
  cases i.dir <;> rfl

/-- Operands within the registers' widths are held whole (45_host_commands.md R221). -/
theorem writeOperands_callOperands (hbuf : buf < 2 ^ p.aw) (hlen : len < 2 ^ p.aw) :
    g.writeOperands p (callOperands i key buf len) = g.withOperands i key buf len := by
  simp [Engine.writeOperands, callOperands, Engine.writeOperand, Engine.withOperands, regTruncate, regWidth,
    Nat.mod_eq_of_lt hbuf, Nat.mod_eq_of_lt hlen]

/-- The selector of an engine whose MODE holds the tag of a command and which was started with its direction is the command's. -/
theorem sel_after_start (hw : i.wellFormed p.encodeExt = true) (hmode : g.mode = i.tag) :
    (g.setDir p (startWord i)).accept.sel p = encode i := by
  have hdir : (g.setDir p (startWord i)).accept.dirBit p = i.dir := by
    rw [Engine.dirBit, Engine.accept_dir, Engine.setDir_dir, startWord_bit_one, ← Instr.ext_and_dir hw]
    cases p.encodeExt <;> rfl
  rw [Engine.sel, hdir, Engine.accept_mode, Engine.setDir_mode, hmode, encode]

/-- A change of an engine that is not busy to one that is not busy overlaps nothing new. -/
theorem overlapsRunning_set_of_not_busy {s : State} {e : Nat} {h f : Engine} {l : List Event} (hb : h.busy = false)
    (hregion : f.region = g.region) (ho : s.overlapsRunning g = false) :
    { s with engines := s.engines.set e h, schedule := l }.overlapsRunning f = false := by
  rw [not_overlapsRunning_iff] at ho ⊢
  intro x hx hbx
  rcases List.mem_or_eq_of_mem_set hx with hx | rfl
  · rw [hregion]
    exact ho x hx hbx
  · rw [hb] at hbx
    cases hbx

/-- The five register writes of CALL in full: the operands, DIR, and the call accepted (30_encoding.md R100). -/
theorem run_hostCall {s : State} {e : Nat} {rest : List Event} (hg : s.engines[e]? = some g) (hb : g.busy = false)
    (hbuf : buf < 2 ^ s.params.aw) (hlen : len < 2 ^ s.params.aw)
    (ho : s.overlapsRunning { g with buf := buf, len := len } = false)
    (hs : s.schedule = hostCall e i key buf len ++ rest) :
    core.run 5 s = .next { s with
      engines := s.engines.set e ((g.withOperands i key buf len).setDir s.params (startWord i)).accept
      schedule := .wait e :: rest } := by
  obtain ⟨hlt, -⟩ := List.getElem?_eq_some_iff.1 hg
  rw [hostCall_eq, List.append_assoc] at hs
  have hn : ∀ w ∈ callOperands i key buf len, w.1 < 4 := by simp [callOperands]
  have hrun := run_operand_writes (k := 1) hn hs hg hb
  rw [writeOperands_callOperands hbuf hlen] at hrun
  have hstart := step_start (g := g.withOperands i key buf len)
    (s := { s with
      engines := s.engines.set e (g.withOperands i key buf len)
      schedule := .regWrite e 4 (startWord i) :: .wait e :: rest })
    rfl (List.getElem?_set_self hlt) hb (startWord_bit_zero i) rfl (overlapsRunning_set_of_not_busy hb rfl ho)
  refine hrun.trans ((run_of_step hstart).trans ?_)
  simp only [List.set_set]
  rfl

end Call

end Machine

open Machine

/-- Settles O1: each row by `decode_eq_ok_iff`, the illegal tags by `decode_of_illegal_tag`. -/
theorem opcodeMap : Obligations.OpcodeMap := by
  refine ⟨fun ext sel => ⟨?_, ?_, ?_, ?_, ?_, ?_, ?_⟩, fun p g hp => ?_⟩
  · exact decode_eq_ok_iff_of_decode_command rfl
  · exact decode_eq_ok_iff_of_decode_command rfl
  · exact decode_eq_ok_iff_of_decode_command rfl
  · exact decode_eq_ok_iff_of_encode_command rfl
  · exact decode_eq_ok_iff_of_encode_command rfl
  · exact decode_eq_ok_iff_of_encode_command rfl
  · exact decode_of_illegal_tag
  · calc (g.sel p).getLsbD 8 = g.dirBit p := selDir_selOf _ _
      _ = false := by rw [Engine.dirBit, hp, Bool.false_and]

/-- Settles O2: the six words are the numbers of the six selectors (`decodeTableWord_encode`). -/
theorem tableWordsDecode : Obligations.TableWordsDecode :=
  ⟨decodeTableWord_encode .decNone, decodeTableWord_encode .decComp, decodeTableWord_encode .decHigh,
    decodeTableWord_encode .encNone, decodeTableWord_encode .encComp, decodeTableWord_encode .encHigh, rfl, rfl, rfl, rfl⟩

/-- Settles O3: the two bytes hold the two fields of the selector. -/
theorem selectorBytesRoundTrip : Obligations.SelectorBytesRoundTrip :=
  fun _ _ rest hw => decodeBytes_encodeBytes hw rest

/-- Settles O4: the five writes leave one known state (`run_hostCall`), whose selector is the command's (`sel_after_start`). -/
theorem callProgramsItsCommand : Obligations.CallProgramsItsCommand := by
  intro s e g i key buf len rest hg hb hw hbuf hlen ho hs
  refine ⟨_, _, run_hostCall hg hb hbuf hlen ho hs, rfl, ?_, ?_⟩
  · rw [sel_after_start hw rfl]
    exact decode_selOf hw
  · simp +contextual [Engine.withOperands, Engine.setDir_dir, startWord_bit_one]

/-- Settles O43: in DONE and FAILED the engine is not busy, and STATUS reads 3 and 4. -/
theorem waitAnswersTheEnd : Obligations.WaitAnswersTheEnd := by
  intro s e g rest hg hs
  have hend : ∀ ph : Phase, ph.isBusy = false → ph ≠ .idle → g.phase = ph →
      step s = .next { s with schedule := rest, hostData := ph.code } := by
    rintro ph hb hidle rfl
    exact step_wait_ended hs hg hb hidle
  exact ⟨hend .done rfl (by decide), hend .failed rfl (by decide)⟩

end Sys2Proof
end

section
/-! PROOFS. The tables (40_tables.md R120 to R128): a bijective table has one inverse, the default tables invert each other, and
the source's seven entries give its vectors. -/

namespace Sys2Proof

namespace Machine

/-- A function that undoes the lookup in a table is its inverse lookup: the uniqueness of R128. -/
theorem invLookup_eq_of_undone {t : Table} {f : Byte → Byte} (h : ∀ x, f (lookup t x) = x) : invLookup t = f := by
  funext y
  calc invLookup t y = f (lookup t (invLookup t y)) := (h _).symm
    _ = f y := by rw [lookup_invLookup (bijective_of_undone h)]

/-- Undoing works in both orders: a left inverse of a lookup is a right inverse too. -/
theorem lookup_undone {t : Table} {f : Byte → Byte} (h : ∀ x, f (lookup t x) = x) (y : Byte) : lookup t (f y) = y := by
  rw [← invLookup_eq_of_undone h, lookup_invLookup (bijective_of_undone h)]

/-- What undoes a lookup keeps its fixed points. -/
theorem fixed_of_undone {t : Table} {f : Byte → Byte} (h : ∀ x, f (lookup t x) = x) {x : Byte} (hx : lookup t x = x) :
    f x = x := by
  calc f x = f (lookup t x) := by rw [hx]
    _ = x := h x

section DefaultTables

/-- R127 (b). -/
@[simp] theorem comp_high1_default (x : Byte) : lookup defaultTables.comp (lookup defaultTables.high1 x) = x :=
  undone_of_list (by decide +kernel) x

@[simp] theorem high1_comp_default (x : Byte) : lookup defaultTables.high1 (lookup defaultTables.comp x) = x :=
  lookup_undone comp_high1_default x

/-- R127 (c), the involution. -/
@[simp] theorem high2_high2_default (x : Byte) : lookup defaultTables.high2 (lookup defaultTables.high2 x) = x :=
  undone_of_list (by decide +kernel) x

/-- R127 (c), no fixed point. -/
theorem high2_default_ne (x : Byte) : lookup defaultTables.high2 x ≠ x := by
  revert x; decide +kernel

/-- R127 (d) for `T_HIGH1`. -/
theorem high1_default_eq_self_iff (x : Byte) : lookup defaultTables.high1 x = x ↔ x = 0x92#8 := by
  revert x; decide +kernel

/-- R127 (d) for `T_COMP`: a table and its inverse have the same fixed points. -/
theorem comp_default_eq_self_iff (x : Byte) : lookup defaultTables.comp x = x ↔ x = 0x92#8 := by
  rw [← high1_default_eq_self_iff]
  exact ⟨fixed_of_undone high1_comp_default, fixed_of_undone comp_high1_default⟩

@[simp] theorem invLookup_comp_default : invLookup defaultTables.comp = lookup defaultTables.high1 :=
  invLookup_eq_of_undone high1_comp_default

@[simp] theorem invLookup_high1_default : invLookup defaultTables.high1 = lookup defaultTables.comp :=
  invLookup_eq_of_undone comp_high1_default

@[simp] theorem invLookup_high2_default : invLookup defaultTables.high2 = lookup defaultTables.high2 :=
  invLookup_eq_of_undone high2_high2_default

end DefaultTables

/-- The three lookups of R169 determine the byte: a trace line of 95_test_vectors.md, read as a proof. -/
theorem highByte_of_lookups {t : Tables} {lower upper b v2 v4 v6 : Byte} (h2 : lookup t.high1 (add8 b lower) = v2)
    (h4 : lookup t.high2 (add8 v2 upper) = v4) (h6 : lookup t.comp (sub8 v4 upper) = v6) :
    highByte t lower upper b = sub8 v6 lower := by
  subst h2 h4 h6
  rfl

end Machine

open Machine

/-- Settles O25: a bijection's inverse is unique (`invLookup_eq_of_undone`), and the default tables undo each other. -/
theorem inverseTables : Obligations.InverseTables := by
  refine ⟨fun t f ht => ⟨fun h => (invLookup_eq_of_undone h).symm, ?_⟩, fun y => ?_⟩
  · rintro rfl
    exact invLookup_lookup ht
  · exact ⟨congrFun invLookup_comp_default y, congrFun invLookup_high1_default y, congrFun invLookup_high2_default y⟩

/-- Settles O24: the parts of R127, each a lemma above. -/
theorem defaultTableProperties : Obligations.DefaultTableProperties := by
  refine ⟨Tests.defaultTables_legal, fun x => ⟨comp_high1_default x, high1_comp_default x⟩,
    fun x => ⟨high2_high2_default x, high2_default_ne x⟩, fun x hx => ⟨?_, ?_⟩, ?_, ?_⟩
  · rwa [ne_eq, high1_default_eq_self_iff]
  · rwa [ne_eq, comp_default_eq_self_iff]
  · exact (high1_default_eq_self_iff _).2 rfl
  · exact (comp_default_eq_self_iff _).2 rfl

/-- Settles O30: the seven entries of R123 are the lookups of the three vectors' chains. -/
theorem sourceVectorsForEveryTables : Obligations.SourceVectorsForEveryTables := by
  rintro t ⟨-, -, -, comp_00, high1_00, high2_41, comp_50, high1_01, high2_36, comp_8E⟩
  refine ⟨fun key k => comp_00, ?_, ?_⟩
  · calc byteMap t .decHigh 0x00000000#32 0 0x00#8 = highByte t 0x00#8 0x00#8 0x00#8 := rfl
      _ = sub8 0xB9#8 0x00#8 := highByte_of_lookups high1_00 high2_41 comp_50
      _ = 0xB9#8 := by decide
  · calc byteMap t .decHigh 0x00000000#32 1 0x00#8 = highByte t 0x01#8 0x00#8 0x00#8 := rfl
      _ = sub8 0x33#8 0x01#8 := highByte_of_lookups high1_01 high2_36 comp_8E
      _ = 0x32#8 := by decide

end Sys2Proof
end

section
/-! PROOFS. The mode_validator (41_mode_validator.md R140 to R148): the operands of each failure, and the next state of each verdict
of the VALIDATE step, for every command and for an illegal selector. -/

namespace Sys2Proof

namespace Machine

/-- The illegal tags in numbers (R94). -/
theorem validateTag_eq_false_iff (tag : Byte) : validateTag tag = false ↔ 2 < tag.toNat := by
  rw [← Bool.not_eq_true, validateTag_iff, not_le]

section Verdicts
variable (p : Params) (g : Engine)

theorem validate_unsupportedMode_iff : validate p g = .fail .unsupportedMode ↔ validateTag g.mode = false := by
  refine ⟨fun h => ?_, fun h => by simp [validate, h]⟩
  obtain ⟨-, htag⟩ | ⟨⟨⟩, -⟩ | ⟨⟨⟩, -⟩ := validate_fail h
  exact htag

/-- Every other verdict is reached only if check 1 passed (R141). -/
theorem validateTag_of_ne_unsupportedMode (h : validate p g ≠ .fail .unsupportedMode) : validateTag g.mode = true := by
  rwa [Ne, validate_unsupportedMode_iff, Bool.not_eq_false] at h

theorem validate_invalidBuffer_iff :
    validate p g = .fail .invalidBuffer ↔ validateTag g.mode = true ∧ 0 < g.len ∧ g.buf = nullAddr := by
  refine ⟨fun h => ?_, fun ⟨htag, hlen, hbuf⟩ => by simp [validate, htag, hlen, hbuf]⟩
  obtain ⟨⟨⟩, -⟩ | ⟨-, hlen, hbuf⟩ | ⟨⟨⟩, -⟩ := validate_fail h
  exact ⟨validateTag_of_ne_unsupportedMode p g (by simp [h]), hlen, hbuf⟩

theorem validate_lengthOverflow_iff :
    validate p g = .fail .lengthOverflow ↔ validateTag g.mode = true ∧ g.buf ≠ nullAddr ∧ maxLen p < g.len := by
  refine ⟨fun h => ?_, fun ⟨htag, hbuf, hlen⟩ => by simp [validate, htag, hbuf, hlen]⟩
  obtain ⟨⟨⟩, -⟩ | ⟨⟨⟩, -⟩ | ⟨-, hlen⟩ := validate_fail h
  have htag := validateTag_of_ne_unsupportedMode p g (by simp [h])
  refine ⟨htag, fun hbuf => ?_, hlen⟩
  rw [(validate_invalidBuffer_iff p g).2 ⟨htag, Nat.zero_lt_of_lt hlen, hbuf⟩] at h
  cases h

end Verdicts

/-- The two forms of check 3 (R144) for a register of width AW. -/
theorem maxLen_lt_iff_testBit {p : Params} {n : Nat} (haw : 17 ≤ p.aw) (hn : n < 2 ^ p.aw) :
    maxLen p < n ↔ n.testBit (p.aw - 1) = true := by
  have hpos : 0 < 2 ^ (p.aw - 1) := Nat.two_pow_pos _
  have htwice : 2 ^ p.aw = 2 * 2 ^ (p.aw - 1) := by rw [← pow_succ', Nat.sub_add_cancel (by omega)]
  have hquot : n / 2 ^ (p.aw - 1) < 2 := Nat.div_lt_of_lt_mul (by omega)
  calc maxLen p < n ↔ 2 ^ (p.aw - 1) ≤ n := by rw [maxLen]; omega
    _ ↔ 0 < n / 2 ^ (p.aw - 1) := by rw [Nat.div_pos_iff]; omega
    _ ↔ n.testBit (p.aw - 1) = true := by
      rw [Nat.testBit_eq_decide_div_mod_eq, decide_eq_true_eq]
      generalize n / 2 ^ (p.aw - 1) = q at hquot ⊢
      omega

section ValidateStep
variable {s : State} {g : Engine} {i : Instr}

theorem validateStep_of_fail {k : ErrKind} (hv : validate s.params g = .fail k) :
    validateStep s g = .next (s.setCurrent (g.raise k)) := by
  simp only [validateStep, hv]

theorem validateStep_of_finish (hv : validate s.params g = .finish) :
    validateStep s g = .next (s.setCurrent g.finish) := by
  simp only [validateStep, hv]

theorem validateStep_of_scan (hv : validate s.params g = .scan) (hf : regionFits s.params g = true)
    (hr : plainRegion s.params g.region = true) :
    validateStep s g = .next (s.setCurrent (g.enterScan (decide (g.mode = tagHigh)))) := by
  simp [validateStep, hv, hf, hr]

/-- What the entry to the scan changes, the mode decided on (R146). -/
theorem Engine.enterScan_of_mode (g : Engine) : g.enterScan (decide (g.mode = tagHigh)) =
    { g with idx := 0, salt := if g.mode = tagHigh then saltInit g.key else g.salt, phase := .scanning } := by
  simp only [Engine.enterScan, decide_eq_true_eq]

/-- A selected command has a legal tag, so only the checks of BUF and LEN are left (R142). -/
theorem validateTag_of_selected (hsel : Selected s i g) : validateTag g.mode = true := by
  obtain ⟨htag, -, -⟩ := Engine.decode_sel hsel.2
  exact htag ▸ validateTag_of_command i

/-- The step of an engine in VALIDATING is VALIDATE, whether its selector is legal or not (45_host_commands.md R225). -/
theorem busyStep_validating {e : Nat} (hg : s.engines[e]? = some g) (hp : g.phase = .validating) :
    busyStep s e g = validateStep (s.giveTurn e) g := by
  have hturn : (s.giveTurn e).engines[(s.giveTurn e).turn]? = some g := hg
  unfold busyStep
  cases hd : decode s.params.encodeExt (g.sel s.params) with
  | ok i => exact exec_of_selected ⟨hturn, hd⟩ hp
  | error r => simp only [execIllegal, commandStep_of hturn, hp]

end ValidateStep

section ValidateMoves
variable {p : Params} {m m' : Memory} {g g' : Engine}

/-- The three outcomes of the validation phase (R147), with what each leaves of the registers. -/
theorem EngineMove.validate_outcomes (hp : g.phase = .validating) (h : EngineMove p m g g' m') :
    (∃ k : ErrKind, k ≠ .noError ∧ g' = { g with err := k, phase := .failed }) ∨
      g' = { g with count := g.len, phase := .done } ∨ g' = { g with idx := 0, salt := g'.salt, phase := .scanning } := by
  cases h with
  | fail k _ hv hg _ => exact .inl ⟨k, validate_fail_ne_noError hv, hg⟩
  | finish _ hv hg _ => exact .inr (.inl hg)
  | enter _ hv hf hr hg _ => exact .inr (.inr (by rw [hg]; rfl))
  | byte i hd hp' => simp [hp] at hp'

/-- A move of the validation phase is one over any other memory too (R147: it does not read MEM). -/
theorem EngineMove.validate_withMem (hp : g.phase = .validating) (h : EngineMove p m g g' m') (n : Memory) :
    EngineMove p n g g' n := by
  cases h with
  | fail k _ hv hg _ => exact .fail k hp hv hg rfl
  | finish _ hv hg _ => exact .finish hp hv hg rfl
  | enter _ hv hf hr hg _ => exact .enter hp hv hf hr hg rfl
  | byte i hd hp' => simp [hp] at hp'

end ValidateMoves

end Machine

open Machine

/-- Settles O8: the verdict is to finish (`validate_finish_iff`). -/
theorem immediateCompletion : Obligations.ImmediateCompletion := by
  intro s i g hsel hp hbuf hlen hend
  rw [exec_of_selected hsel hp]
  exact validateStep_of_finish ((validate_finish_iff _ _).2 ⟨validateTag_of_selected hsel, hbuf, hlen, hend⟩)

/-- Settles O9: check 2 comes before check 3 and before the mode is looked at; LEN = 0 passes both. -/
theorem nullBufferFails : Obligations.NullBufferFails := by
  refine ⟨fun s i g hsel hp hlen hbuf => ?_, fun s i g hsel hp hlen => ?_⟩
  · rw [exec_of_selected hsel hp]
    exact validateStep_of_fail ((validate_invalidBuffer_iff _ _).2 ⟨validateTag_of_selected hsel, hlen, hbuf⟩)
  · have hdone := immediateCompletion s i g hsel hp (.inl hlen) (hlen ▸ Nat.zero_le _) (.inr hlen)
    simpa only [hlen] using hdone

/-- Settles O10: the condition of check 3 (`validate_lengthOverflow_iff`) and its form as a bit (`maxLen_lt_iff_testBit`). -/
theorem lengthOverflowFails : Obligations.LengthOverflowFails := by
  refine ⟨fun s i g hsel hp hbuf hlen => ?_, fun p n => maxLen_lt_iff_testBit, fun p g hlen hv => ?_⟩
  · rw [exec_of_selected hsel hp]
    exact validateStep_of_fail ((validate_lengthOverflow_iff _ _).2 ⟨validateTag_of_selected hsel, hbuf, hlen⟩)
  · obtain ⟨-, -, hlt⟩ := (validate_lengthOverflow_iff p g).1 hv
    exact hlt.ne' hlen

/-- Settles O11: the verdict is to scan (`validate_scan_iff_of_selected`), and the region may be scanned. -/
theorem scanEntry : Obligations.ScanEntry := by
  intro s i g hsel hp hi h0 hbuf hlen hfits hplain
  have hv : validate s.params g = .scan := (validate_scan_iff_of_selected hsel).2 ⟨hi, h0, hbuf, hlen⟩
  rw [exec_of_selected hsel hp, validateStep_of_scan hv (decide_eq_true hfits) hplain, Engine.enterScan_of_mode]
  rfl

/-- Settles O13: a next state is a move of the validation phase, which has three outcomes (`EngineMove.validate_outcomes`) and is
the same move over any memory (`EngineMove.validate_withMem`). -/
theorem validationAllOrNothing : Obligations.ValidationAllOrNothing := by
  intro s t i g hg hp h
  have hw := wellFormed_of_exec h
  rw [exec_validating hw hg hp, validateStep_next_iff hp] at h
  obtain ⟨g', hmove, rfl⟩ := h
  refine ⟨⟨g', rfl, hmove.validate_outcomes hp⟩, fun m => ?_⟩
  rw [exec_validating (s := { s with mem := m }) hw hg hp]
  exact (validateStep_next_iff hp).2 ⟨g', hmove.validate_withMem hp m, rfl⟩

/-- Settles O6: each way to be given the turn is a VALIDATE step (`busyStep_validating`), whose first check fails. -/
theorem illegalTagFails : Obligations.IllegalTagFails := by
  intro s e g hg hp htag
  have hb : g.busy = true := by simp [Engine.busy, hp, Phase.isBusy]
  have hv : ∀ p, validate p g = .fail .unsupportedMode := fun p =>
    (validate_unsupportedMode_iff p g).2 ((validateTag_eq_false_iff _).2 htag)
  have hstep : ∀ s' : State, s'.engines = s.engines →
      busyStep s' e g = .next ((s'.giveTurn e).setCurrent (g.raise .unsupportedMode)) := fun s' hs' => by
    rw [busyStep_validating (hs' ▸ hg) hp]
    exact validateStep_of_fail (hv _)
  refine ⟨fun rest hs => ?_, fun rest hs => ?_, fun hs hf => ?_⟩
  · rw [step_turn hs hg hb]
    exact hstep _ rfl
  · rw [step_wait hs hg hb]
    exact hstep _ rfl
  · rw [step_unscheduled hs hf hg hb]
    exact hstep _ rfl

/-- Settles O12: a row for each verdict, by what the verdict says of the operands. -/
theorem validationTruthTable : Obligations.ValidationTruthTable := by
  intro p g
  simp only [← validateTag_iff, ← validateTag_eq_false_iff]
  refine ⟨fun htag => ?_, fun htag hlen => ?_, fun htag hlen hbuf => ?_, fun htag _ hbuf hlen => ?_,
    fun htag h0 hbuf hlen => ?_⟩
  · exact (validate_unsupportedMode_iff p g).2 htag
  · exact (validate_finish_iff p g).2 ⟨htag, .inl hlen, hlen ▸ Nat.zero_le _, .inr hlen⟩
  · exact (validate_invalidBuffer_iff p g).2 ⟨htag, hlen, hbuf⟩
  · exact (validate_lengthOverflow_iff p g).2 ⟨htag, hbuf, hlen⟩
  · split
    · next hnone => exact (validate_finish_iff p g).2 ⟨htag, .inr hbuf, hlen, .inl hnone⟩
    · next hnone => exact (validate_scan_iff p g).2 ⟨htag, h0, hbuf, hlen, hnone⟩

end Sys2Proof
end

section
/-! PROOFS. The salt_scheduler_and_xor (42_salt_scheduler.md R150 to R155): its functions in numbers, and the closed form of the
salt of a byte. -/

namespace Sys2Proof

namespace Machine

section SaltNumbers

@[simp] theorem keyUpper_toNat (k : Key) : (keyUpper k).toNat = k.toNat / 65536 := by
  have hk : k.toNat < 2 ^ 32 := k.isLt
  rw [keyUpper, BitVec.extractLsb'_toNat, Nat.shiftRight_eq_div_pow]
  omega

@[simp] theorem keyLower_toNat (k : Key) : (keyLower k).toNat = k.toNat % 65536 :=
  BitVec.extractLsb'_toNat 0 16 k

/-- R150 in numbers. -/
theorem saltInit_toNat (k : Key) : (saltInit k).toNat = (k.toNat / 65536) ^^^ (k.toNat % 65536) := by
  rw [saltInit, xor16, BitVec.toNat_xor, keyUpper_toNat, keyLower_toNat]

@[simp] theorem saltLower_toNat (s : Salt) : (saltLower s).toNat = s.toNat % 256 :=
  BitVec.extractLsb'_toNat 0 8 s

@[simp] theorem saltUpper_toNat (s : Salt) : (saltUpper s).toNat = s.toNat / 256 := by
  have hs : s.toNat < 2 ^ 16 := s.isLt
  rw [saltUpper, BitVec.extractLsb'_toNat, Nat.shiftRight_eq_div_pow]
  omega

@[simp] theorem saltAdvance_toNat (s : Salt) : (saltAdvance s).toNat = (s.toNat + 1) % 65536 :=
  BitVec.toNat_add s 1#16

end SaltNumbers

section ClosedForm

/-- R155: the closed form in numbers. -/
@[simp] theorem saltAt_toNat (key : Key) (k : Nat) : (saltAt key k).toNat = ((saltInit key).toNat + k) % 65536 := by
  rw [saltAt, BitVec.toNat_add, BitVec.toNat_ofNat, Nat.add_mod_mod]

/-- Byte numbers a multiple of 65536 apart have one salt. -/
theorem saltAt_congr {key : Key} {k n : Nat} (h : k % 65536 = n % 65536) : saltAt key k = saltAt key n := by
  apply BitVec.eq_of_toNat_eq
  rw [saltAt_toNat, saltAt_toNat]
  exact Nat.ModEq.add_left _ h

end ClosedForm

end Machine

open Machine

/-- Settles O21: each function's own value in numbers. -/
theorem saltFunctions : Obligations.SaltFunctions :=
  ⟨saltInit_toNat, fun s => ⟨saltLower_toNat s, saltUpper_toNat s⟩, saltAdvance_toNat⟩

/-- Settles O22: the value in numbers (`saltAt_toNat`), one `advance` (`saltAt_succ`), and the period by the value
(`saltAt_congr`). -/
theorem saltClosedForm : Obligations.SaltClosedForm := fun key k =>
  ⟨saltAt_toNat key k, saltAt_succ key k, saltAt_congr (Nat.add_mod_right k 65536)⟩

end Sys2Proof
end

section
/-! PROOFS. The byte maps of the six commands (43_transform_decode.md R169, R175, R176): the command of the other direction undoes each,
and under the default tables the two directions of the High mode are one map. -/

namespace Sys2Proof

/-- The command of the same mode in the other direction (30_encoding.md R93); what it does to a byte is undone: `byteOut_opposite`. -/
def Instr.opposite : Instr → Instr
  | .decNone => .encNone
  | .decComp => .encComp
  | .decHigh => .encHigh
  | .encNone => .decNone
  | .encComp => .decComp
  | .encHigh => .decHigh

theorem Instr.opposite_opposite (i : Instr) : i.opposite.opposite = i := by cases i <;> rfl

namespace Machine

section HighBytes
variable {t : Tables} (h1 : TableBijective t.high1) (h2 : TableBijective t.high2) (h3 : TableBijective t.comp)
include h1 h2 h3

/-- Each stage of R203 undoes one of R169, in reverse order (44_transform_encode.md R207). -/
theorem highByteEnc_highByte (lower upper b : Byte) : highByteEnc t lower upper (highByte t lower upper b) = b := by
  simp [highByteEnc, highByte, invLookup_lookup h1, invLookup_lookup h2, invLookup_lookup h3]

theorem highByte_highByteEnc (lower upper b : Byte) : highByte t lower upper (highByteEnc t lower upper b) = b := by
  simp [highByteEnc, highByte, lookup_invLookup h1, lookup_invLookup h2, lookup_invLookup h3]

end HighBytes

/-- What a command does to a byte, the command of the other direction undoes at the same salt. -/
theorem byteOut_opposite {t : Tables} (ht : TablesLegal t) (i : Instr) (salt : Salt) (b : Byte) :
    byteOut t i.opposite salt (byteOut t i salt b) = b := by
  obtain ⟨h1, h2, h3, -⟩ := ht
  cases i with
  | decNone => rfl
  | decComp => exact invLookup_lookup h3 b
  | decHigh => exact highByteEnc_highByte h1 h2 h3 ..
  | encNone => rfl
  | encComp => exact lookup_invLookup h3 b
  | encHigh => exact highByte_highByteEnc h1 h2 h3 ..

/-- Under the default tables the three inverse lookups of R203 are the three lookups of R169, in R169's order (R176, R127). -/
theorem highByteEnc_default (lower upper b : Byte) :
    highByteEnc defaultTables lower upper b = highByte defaultTables lower upper b := by
  simp only [highByteEnc, highByte, invLookup_comp_default, invLookup_high2_default, invLookup_high1_default]

theorem highByte_default_involutive (lower upper : Byte) : Function.Involutive (highByte defaultTables lower upper) := by
  obtain ⟨h1, h2, h3, -⟩ := Tests.defaultTables_legal
  intro b
  rw [← highByteEnc_default, highByteEnc_highByte h1 h2 h3]

theorem byteMap_decHigh_default_involutive (key : Key) (k : Nat) :
    Function.Involutive (byteMap defaultTables .decHigh key k) :=
  highByte_default_involutive (saltLower (saltAt key k)) (saltUpper (saltAt key k))

end Machine

open Machine

/-- Settles O26: the byte map of the opposite command is an inverse on both sides (`byteOut_opposite`). -/
theorem byteMapsAreBijections : Obligations.ByteMapsAreBijections := by
  intro t i salt ht
  refine Function.bijective_iff_has_inverse.2 ⟨byteOut t i.opposite salt, byteOut_opposite ht i salt, fun b => ?_⟩
  simpa only [Instr.opposite_opposite] using byteOut_opposite ht i.opposite salt b

/-- Settles O28: R176's example is the source's vector (`sourceVectorsForEveryTables`) read backwards. -/
theorem decHighIsItsOwnInverse : Obligations.DecHighIsItsOwnInverse := by
  obtain ⟨-, hvec0, hvec1⟩ := sourceVectorsForEveryTables defaultTables Tests.defaultTables_legal
  refine ⟨highByte_default_involutive, byteMap_decHigh_default_involutive, by decide +kernel, ?_, ?_⟩
  · exact ((byteMap_decHigh_default_involutive _ _).eq_iff).2 hvec0.symm
  · exact ((byteMap_decHigh_default_involutive _ _).eq_iff).2 hvec1.symm

end Sys2Proof
end

section
/-! PROOFS. The whole call as the function of the buffer that R171 gives (43_transform_decode.md R170, R171). -/

namespace Sys2Proof

namespace Machine

section CallDone
variable {s t : State} {e : Nat} {g h : Engine} {i : Instr}

theorem CallDone.read_byte (hdone : CallDone s e g i t h) {k : Nat} (hk : k < g.len) :
    t.mem.read (g.buf + k) = byteMap s.params.tables i g.key k (s.mem.read (g.buf + k)) := by
  rw [hdone.mem, if_pos (by omega), Nat.add_sub_cancel_left]

theorem CallDone.read_outside (hdone : CallDone s e g i t h) {a : Nat} (ha : a < g.buf ∨ g.buf + g.len ≤ a) :
    t.mem.read a = s.mem.read a := by
  rw [hdone.mem, if_neg (by omega)]

end CallDone

end Machine

open Machine

/-- Settles O31: the run ends as `CallDone` says (`run_call`), and a busy engine of the invariant has ERR = 0. -/
theorem wholeCall : Obligations.WholeCall := by
  intro s e g i rest hinv hg hp hd hbuf hlen hscan hs
  obtain ⟨t, h, hrun, hsched, hdone⟩ := run_call hg hp hd hbuf hlen hscan hs
  have herr : g.err = .noError :=
    (hinv.engines g (List.mem_of_getElem? hg)).err_of_busy (by simp [Engine.busy, hp, Phase.isBusy])
  exact ⟨t, h, hrun, hsched, hdone.engines, hdone.phase, hdone.count, hdone.err.trans herr,
    fun k hk => hdone.read_byte hk, fun a ha => hdone.read_outside ha⟩

end Sys2Proof
end

section
/-! PROOFS. The encode direction (44_transform_encode.md R201 to R206): the two commands of one mode undo each other, under the default
tables they coincide but for the Compressible mode, and without ENCODE_EXT the direction bit selects nothing. -/

namespace Sys2Proof

/-- No two commands share a row of the opcode map (30_encoding.md R93). -/
theorem encode_injective : Function.Injective encode := by
  intro i j h
  have hwf : ∀ c : Instr, c.wellFormed true = true := fun c => by simp [Instr.wellFormed]
  have hi : decode true (encode i) = .ok j := decode_eq_ok_iff.2 ⟨hwf j, h⟩
  rw [encode, decode_selOf (hwf i)] at hi
  exact Except.ok.inj hi

theorem Instr.opposite_dir (i : Instr) : i.opposite.dir = !i.dir := by cases i <;> rfl

theorem Instr.opposite_tag (i : Instr) : i.opposite.tag = i.tag := by cases i <;> rfl

theorem Instr.eq_opposite {i j : Instr} (hdir : j.dir = !i.dir) (htag : j.tag = i.tag) : j = i.opposite := by
  apply encode_injective
  rw [encode, encode, hdir, htag, Instr.opposite_dir, Instr.opposite_tag]

namespace Machine

/-- Each legal tag is the tag of a decode command, the only commands without ENCODE_EXT (R93, R206). -/
theorem exists_decode_command {tag : Byte} (h : tag.toNat ≤ 2) : ∃ i : Instr, i.isEncode = false ∧ i.tag = tag := by
  by_cases hnone : tag = tagNone
  · exact ⟨.decNone, rfl, hnone.symm⟩
  · obtain hcomp | hhigh := mode_of_validateTag ((validateTag_iff tag).2 h) hnone
    · exact ⟨.decComp, rfl, hcomp.symm⟩
    · exact ⟨.decHigh, rfl, hhigh.symm⟩

section NoEncodeExt
variable {p : Params} (hext : p.encodeExt = false)
include hext

/-- Without ENCODE_EXT DIR ignores writes (10_state.md R25). -/
theorem Engine.setDir_of_no_encodeExt (g : Engine) (v : Nat) : g.setDir p v = g := by
  simp [Engine.setDir, hext]

theorem Engine.sel_of_no_encodeExt (g : Engine) : g.sel p = selOf false g.mode := by
  simp [Engine.sel, Engine.dirBit, hext]

end NoEncodeExt

end Machine

open Machine

/-- Settles O27: the two commands are opposite (`Instr.eq_opposite`), and at each position both read the same salt. -/
theorem encodeDecodeRoundTrip : Obligations.EncodeDecodeRoundTrip := by
  intro t d e key k b ht hd he htag
  have hed : e = d.opposite := Instr.eq_opposite (by rw [hd, he]; rfl) htag.symm
  have hde : d = e.opposite := by rw [hed, Instr.opposite_opposite]
  constructor
  · rw [hed]
    exact byteOut_opposite ht d (saltAt key k) b
  · rw [hde]
    exact byteOut_opposite ht e (saltAt key k) b

/-- Settles O29: each inverse table of R201 is one of the default tables themselves (R127). -/
theorem defaultEncodeDecodeCoincide : Obligations.DefaultEncodeDecodeCoincide := by
  intro key k b
  refine ⟨?high, ?none, ?encComp, ?decComp⟩
  case high => exact highByteEnc_default ..
  case none => rfl
  case encComp => exact congrFun invLookup_comp_default b
  case decComp => rfl

/-- Settles O44: the START is accepted with the engine's registers as they were, so SEL is the tag with DIR = 0. -/
theorem noDirectionBitWithoutExtension : Obligations.NoDirectionBitWithoutExtension := by
  intro s e g rest hext hg hb hs hw ho
  have hstep := step_start hs hg hb rfl hw ho
  rw [Engine.setDir_of_no_encodeExt hext] at hstep
  refine ⟨_, g.accept, hstep, rfl, rfl, rfl, fun hlegal => ?_⟩
  obtain ⟨i, hdec, htag⟩ := exists_decode_command hlegal
  have hdir : i.dir = false := i.dir_eq_isEncode.trans hdec
  refine ⟨i, (decode_eq_ok_iff_of_decode_command hdec).2 ?_, hdir, htag⟩
  rw [Engine.sel_of_no_encodeExt hext, Engine.accept_mode, encode, hdir, htag]

end Sys2Proof
end

section
/-! PROOFS. The BYTE step of the four scanning commands (45_host_commands.md R226): it completes wherever its byte may be accessed, with
one frame for all four; what it stores is the command's own (43_transform_decode.md R167, R168, 44_transform_encode.md R202, R203). -/

namespace Sys2Proof

namespace Machine

section ByteStep
variable {s : State} {g : Engine} {i : Instr}

/-- The engine's port makes the access where there is plain memory (20_memory.md R78, R79). -/
theorem portRefusal_of_plain {p : Params} {a : Nat} (ha : a < addrSpace p) (hpl : plainAddr p a = true) :
    portRefusal p a = none := by
  simp [portRefusal, ha.not_ge, hpl]

/-- R152 as a number put back into a salt. -/
theorem saltAdvance_eq_ofNat (salt : Salt) : saltAdvance salt = BitVec.ofNat 16 ((salt.toNat + 1) % 65536) := by
  apply BitVec.eq_of_toNat_eq
  rw [saltAdvance_toNat, BitVec.toNat_ofNat, Nat.mod_mod]

/-- All that the end of a BYTE step does to the registers of a scanning engine (R226). -/
theorem Engine.advance_of_scanning (hp : g.phase = .scanning) (high : Bool) : g.advance high = { g with
    salt := if high then BitVec.ofNat 16 ((g.salt.toNat + 1) % 65536) else g.salt
    idx := g.idx + 1
    count := if g.idx + 1 = g.len then g.len else g.count
    phase := if g.idx + 1 = g.len then .done else .scanning } := by
  rw [← saltAdvance_eq_ofNat, ← hp]
  unfold Engine.advance
  by_cases hend : g.idx + 1 = g.len
  · simp only [hend, if_true, Engine.finish]
  · simp only [hend, if_false]

/-- The BYTE step of a scanning command on a byte that the port may access: the byte stored, the frame of MEM, and the rest of the
next state. -/
theorem exec_byte (hw : i.wellFormed s.params.encodeExt = true) (hi : scans i = true)
    (hg : s.engines[s.turn]? = some g) (hp : g.phase = .scanning)
    (ha : g.buf + g.idx < 2 ^ s.params.aw) (hpl : plainAddr s.params (g.buf + g.idx) = true) :
    ∃ t, exec i s = .next t ∧
      t.mem.read (g.buf + g.idx) = byteOut s.params.tables i g.salt (s.mem.read (g.buf + g.idx)) ∧
      (∀ a, a ≠ g.buf + g.idx → t.mem.read a = s.mem.read a) ∧
      t = { s with mem := t.mem, engines := s.engines.set s.turn (g.advance (isHigh i)) } := by
  refine ⟨s.moved s.turn (g.advance (isHigh i)) (s.mem.write g.byteAddr
      (byteOut s.params.tables i g.salt (s.mem.read g.byteAddr))), ?_, Memory.read_write_same ..,
    fun a hne => Memory.read_write_ne _ _ hne, rfl⟩
  rw [exec_scanning hw hg hp]
  exact byteOf_next_iff.2 ⟨hi, portRefusal_of_plain ha hpl, rfl⟩

/-- The two bytes of a salt, given by their numbers (R151). -/
theorem eq_saltBytes {salt : Salt} {lower upper : Byte} (hlower : lower.toNat = salt.toNat % 256)
    (hupper : upper.toNat = salt.toNat / 256) : lower = saltLower salt ∧ upper = saltUpper salt :=
  ⟨BitVec.eq_of_toNat_eq (hlower.trans (saltLower_toNat salt).symm),
    BitVec.eq_of_toNat_eq (hupper.trans (saltUpper_toNat salt).symm)⟩

end ByteStep

end Machine

open Machine

/-- Settles O16: the byte step of DEC.COMP, which exists on every engine. -/
theorem decCompByte : Obligations.DecCompByte := by
  intro s g hg hp ha hpl
  obtain ⟨t, hexec, hread, hframe, ht⟩ := exec_byte (i := .decComp) rfl rfl hg hp ha hpl
  rw [Engine.advance_of_scanning hp] at ht
  exact ⟨t, hexec, hread, hframe, ht⟩

/-- Settles O17: the byte step of DEC.HIGH; `byteOut` is the listing's seven stages over the bytes of SALT. -/
theorem decHighByte : Obligations.DecHighByte := by
  intro s g lower upper hg hp ha hpl hlower hupper
  obtain ⟨rfl, rfl⟩ := eq_saltBytes hlower hupper
  obtain ⟨t, hexec, hread, hframe, ht⟩ := exec_byte (i := .decHigh) rfl rfl hg hp ha hpl
  rw [Engine.advance_of_scanning hp] at ht
  exact ⟨t, hexec, hread, hframe, ht⟩

/-- Settles O18: the byte step of ENC.COMP stores an inverse lookup, which a bijective table undoes (`lookup_invLookup`). -/
theorem encCompByte : Obligations.EncCompByte := by
  intro s g hext htables hg hp ha hpl
  obtain ⟨-, -, hcomp, -⟩ := htables
  obtain ⟨t, hexec, hread, hframe, ht⟩ := exec_byte (i := .encComp) hext rfl hg hp ha hpl
  rw [Engine.advance_of_scanning hp] at ht
  refine ⟨t, hexec, ?_, hframe, ht⟩
  rw [hread]
  exact lookup_invLookup hcomp _

/-- Settles O19: the byte step of ENC.HIGH; its three inverse lookups are undone each by its own table (`lookup_invLookup`). -/
theorem encHighByte : Obligations.EncHighByte := by
  intro s g lower upper hext htables hg hp ha hpl hlower hupper
  obtain ⟨hhigh1, hhigh2, hcomp, -⟩ := htables
  obtain ⟨rfl, rfl⟩ := eq_saltBytes hlower hupper
  obtain ⟨t, hexec, hread, hframe, ht⟩ := exec_byte (i := .encHigh) hext rfl hg hp ha hpl
  rw [Engine.advance_of_scanning hp] at ht
  exact ⟨t, _, _, _, hexec, lookup_invLookup hcomp _, lookup_invLookup hhigh2 _, lookup_invLookup hhigh1 _, hread,
    hframe, ht⟩

end Sys2Proof
end

section
/-! PROOFS. What a turn does (45_host_commands.md R220, R224, R228): the decoded command of a busy engine, nothing for another; and that
with its turns every call ends, in DONE or in FAILED (R227). -/

namespace Sys2Proof

namespace Machine

theorem Engine.busy_of_validating {g : Engine} (hp : g.phase = .validating) : g.busy = true := by
  rw [Engine.busy, hp]
  rfl

theorem Engine.busy_of_scanning {g : Engine} (hp : g.phase = .scanning) : g.busy = true := by
  rw [Engine.busy, hp]
  rfl

/-- A legal tag and either direction bit that the engine has make a row of the opcode map (30_encoding.md R93). -/
theorem exists_decode_sel {p : Params} {g : Engine} (h : validateTag g.mode = true) :
    ∃ i, decode p.encodeExt (g.sel p) = .ok i := by
  obtain ⟨d, hd, htag⟩ := exists_decode_command ((validateTag_iff g.mode).1 h)
  have hddir : d.dir = false := d.dir_eq_isEncode.trans hd
  cases hdir : g.dirBit p with
  | false =>
    refine ⟨d, (decode_eq_ok_iff_of_decode_command hd).2 ?_⟩
    rw [Engine.sel, hdir, encode, hddir, htag]
  | true =>
    have hext : p.encodeExt = true := by simp_all [Engine.dirBit]
    have hodir : d.opposite.dir = true := by rw [Instr.opposite_dir, hddir]; rfl
    refine ⟨d.opposite, (decode_eq_ok_iff_of_encode_command (d.opposite.dir_eq_isEncode ▸ hodir)).2 ⟨hext, ?_⟩⟩
    rw [Engine.sel, hdir, encode, hodir, Instr.opposite_tag, htag]

section Turn
variable {s t : State} {e n : Nat} {g h : Engine} {rest : List Event}

theorem busyStep_of_decode {i : Instr} (hd : decode s.params.encodeExt (g.sel s.params) = .ok i) :
    busyStep s e g = exec i (s.giveTurn e) := by
  simp only [busyStep, hd]

/-- A turn of an engine that is not busy is spent on nothing (R228). -/
theorem step_turn_not_busy (hs : s.schedule = .engine e :: rest) (hg : s.engines[e]? = some g) (hb : g.busy = false) :
    step s = .next { s with schedule := rest } := by
  simp [step, agentsStep, hs, runEvent, engineTurn, hg, hb]

theorem step_waiting (hs : s.schedule = []) (hb : ∀ g ∈ s.engines, g.busy = false) : step s = .next s := by
  have hnone : s.engines.findIdx? (fun g => g.busy) = none := List.findIdx?_eq_none_iff.2 hb
  simp [step, agentsStep, hs, State.firstBusy, hnone]

theorem run_turns_not_busy (hs : s.schedule = turns e n ++ rest) (hg : s.engines[e]? = some g) (hb : g.busy = false) :
    core.run n s = .next { s with schedule := rest } := by
  induction n generalizing s with
  | zero =>
    have hs : s.schedule = rest := hs
    rw [← hs]
    rfl
  | succ n ih =>
    rw [run_of_step (step_turn_not_busy (by simpa [turns, List.replicate_succ] using hs) hg hb)]
    exact ih rfl hg

/-- A call that a turn ends stays ended for the turns left. -/
theorem run_turns_of_ended (hlt : e < s.engines.length) (hb : h.busy = false)
    (hstep : step s = .next { s with schedule := turns e n ++ rest, turn := e, engines := s.engines.set e h }) :
    ∃ t, core.run (n + 1) s = .next t ∧ t.engines[e]? = some h := by
  have hget : (s.engines.set e h)[e]? = some h := List.getElem?_set_self hlt
  exact ⟨_, (run_of_step hstep).trans (run_turns_not_busy rfl hget hb), hget⟩

/-- A scheduled turn of a validating engine, its selector legal or not (R225). -/
theorem step_turn_validating (hs : s.schedule = .engine e :: rest) (hg : s.engines[e]? = some g)
    (hp : g.phase = .validating) : step s = validateStep { s with schedule := rest, turn := e } g := by
  rw [step_turn hs hg (Engine.busy_of_validating hp)]
  exact busyStep_validating (s := { s with schedule := rest }) hg hp

end Turn

end Machine

open Machine

/-- Settles O5: each way to be given the turn is `busyStep`, which runs the decoded command. -/
theorem stepRunsDecoded : Obligations.StepRunsDecoded := by
  intro s e g i hg hb hd
  refine ⟨fun rest hs => ?_, fun rest hs => ?_, fun hs hf => ?_⟩
  · rw [step_turn hs hg hb]
    exact busyStep_of_decode hd
  · rw [step_wait hs hg hb]
    exact busyStep_of_decode hd
  · rw [step_unscheduled hs hf hg hb]
    exact busyStep_of_decode hd

/-- Settles O7: a turn of an engine that is not busy, and the machine with none busy. -/
theorem noStepWhenNotBusy : Obligations.NoStepWhenNotBusy :=
  ⟨fun _ _ _ _ hg hb hs => step_turn_not_busy hs hg hb, fun _ hs hb => step_waiting hs hb⟩

/-- Settles O32: by the verdict. A call that fails or finishes has ended in its VALIDATE step, and its other turns are spent on nothing
(`run_turns_of_ended`); one that scans needs them all (`run_scanning_call`). -/
theorem callEndsWithinBound : Obligations.CallEndsWithinBound := by
  intro s e g rest hi hg hp hscan hs
  have hlt : e < s.engines.length := (List.getElem?_eq_some_iff.1 hg).1
  have hb := Engine.busy_of_validating hp
  have herr : g.err = .noError := (hi.engine hg).err_of_busy hb
  have hcount : g.count = 0 := (hi.engine hg).count_of_busy hb
  have hstep : step s = validateStep { s with schedule := turns e g.len ++ rest, turn := e } g :=
    step_turn_validating (by simpa [turns, Nat.add_comm 1, List.replicate_succ] using hs) hg hp
  cases hv : validate s.params g with
  | fail k =>
    obtain ⟨t, hrun, hget⟩ := run_turns_of_ended (h := g.raise k) hlt rfl (hstep.trans (validateStep_of_fail hv))
    exact ⟨t, _, Nat.add_comm 1 _ ▸ hrun, hget, .inr ⟨rfl, hcount, validate_fail_ne_noError hv⟩⟩
  | finish =>
    obtain ⟨t, hrun, hget⟩ := run_turns_of_ended (h := g.finish) hlt rfl (hstep.trans (validateStep_of_finish hv))
    exact ⟨t, _, Nat.add_comm 1 _ ▸ hrun, hget, .inl ⟨rfl, rfl, herr⟩⟩
  | scan =>
    obtain ⟨htag, h0, hbuf, hlen, hnone⟩ := (validate_scan_iff _ _).1 hv
    obtain ⟨i, hd⟩ := exists_decode_sel (p := s.params) htag
    have hsi : scans i = true := by
      obtain ⟨hmode, -, -⟩ := Engine.decode_sel hd
      rwa [hmode, Ne, tag_eq_none, Bool.not_eq_false] at hnone
    obtain ⟨hfits, hplain⟩ := hscan (mode_of_validateTag htag hnone) h0 hbuf hlen
    obtain ⟨t, h, hrun, -, hdone⟩ := run_scanning_call hg hp hd hbuf h0 hlen hsi hfits hplain hs
    refine ⟨t, h, hrun, ?_, .inl ⟨hdone.phase, hdone.count, hdone.err.trans herr⟩⟩
    rw [hdone.engines]
    exact List.getElem?_set_self hlt

end Sys2Proof
end

section
/-! PROOFS. The host's operations on the register block (45_host_commands.md R221 to R223), register by register. -/

namespace Sys2Proof

namespace Machine

/-- What a write to CTRL does to DIR (R223). -/
theorem Engine.setDir_eq (p : Params) (g : Engine) (v : Nat) :
    g.setDir p v = { g with dir := if p.encodeExt then v.testBit 1 else g.dir } := by
  unfold Engine.setDir
  split <;> rfl

section Writes
variable {s : State} {e n v : Nat} {g : Engine} {rest : List Event}

theorem regWrite_no_register (hg : s.engines[e]? = some g) (hn : 7 < n) :
    regWrite s e n v = .refused (.noSuchRegister n) := by
  simp [regWrite, hg, hn]

theorem regWrite_read_only (hg : s.engines[e]? = some g) (hn : 4 < n) (hn' : n ≤ 7) : regWrite s e n v = .next s := by
  simp [regWrite, hg, hn, hn'.not_gt]

/-- A write to CTRL without START, on an engine that is not busy. -/
theorem step_direction (hs : s.schedule = .regWrite e 4 v :: rest) (hg : s.engines[e]? = some g) (hb : g.busy = false)
    (hv : v.testBit 0 = false) :
    step s = .next { s with schedule := rest, engines := s.engines.set e (g.setDir s.params v) } := by
  simp [step_regWrite hs, regWrite, hg, hb, ctrlWrite, hv, State.setEngine]

end Writes

section Reads
variable {s : State} {e n : Nat} {g : Engine} {rest : List Event}

theorem regRead_no_register (hg : s.engines[e]? = some g) (hn : 7 < n) :
    regRead s e n = .refused (.noSuchRegister n) := by
  rw [regRead, hg]
  match n with
  | 0 | 1 | 2 | 3 | 4 | 5 | 6 | 7 => omega
  | _ + 8 => rfl

theorem step_read_mode (hs : s.schedule = .regRead e 0 :: rest) (hg : s.engines[e]? = some g) :
    step s = .next ({ s with schedule := rest }.answerOperand g.written.mode 8 g.mode.toNat) := by
  simp [step_regRead hs, regRead, hg]

theorem step_read_key (hs : s.schedule = .regRead e 1 :: rest) (hg : s.engines[e]? = some g) :
    step s = .next ({ s with schedule := rest }.answerOperand g.written.key 32 g.key.toNat) := by
  simp [step_regRead hs, regRead, hg]

theorem step_read_buf (hs : s.schedule = .regRead e 2 :: rest) (hg : s.engines[e]? = some g) :
    step s = .next ({ s with schedule := rest }.answerOperand g.written.buf s.params.aw g.buf) := by
  simp [step_regRead hs, regRead, hg]

theorem step_read_len (hs : s.schedule = .regRead e 3 :: rest) (hg : s.engines[e]? = some g) :
    step s = .next ({ s with schedule := rest }.answerOperand g.written.len s.params.aw g.len) := by
  simp [step_regRead hs, regRead, hg]

/-- The answer for an operand register: its value if it has been written since reset, else some value of its width (R222). -/
theorem answerOperand_spec (s : State) (written : Bool) (w v : Nat) :
    ∃ x f, s.answerOperand written w v = { s with hostData := x, fresh := f } ∧
      (written = true → x = v) ∧ (written = false → x < 2 ^ w) := by
  cases written with
  | true => exact ⟨v, s.fresh, rfl, fun _ => rfl, nofun⟩
  | false => exact ⟨_, s.fresh + 1, rfl, nofun, fun _ => Nat.mod_lt _ (Nat.two_pow_pos w)⟩

/-- The same for a register whose value cannot exceed its width. -/
theorem answerOperand_lt (s : State) (written : Bool) {w v : Nat} (hv : v < 2 ^ w) :
    ∃ x f, s.answerOperand written w v = { s with hostData := x, fresh := f } ∧ x < 2 ^ w ∧ (written = true → x = v) := by
  obtain ⟨x, f, hanswer, hwritten, hfree⟩ := answerOperand_spec s written w v
  refine ⟨x, f, hanswer, ?_, hwritten⟩
  cases written with
  | true => exact hwritten rfl ▸ hv
  | false => exact hfree rfl

end Reads

end Machine

open Machine

/-- Settles O36: the refusal, the two ways to be ignored, and the accepted operand write (`step_operand_write`). -/
theorem registerWrite : Obligations.RegisterWrite := by
  intro s e n v g rest hg hs
  refine ⟨fun hn => ?_, fun hn => ?_, fun hn hb => ?_, fun hb => ?_⟩
  · exact (step_regWrite hs).trans (regWrite_no_register hg hn)
  · exact (step_regWrite hs).trans (regWrite_read_only hg (by omega) (by omega))
  · exact (step_regWrite hs).trans (regWrite_busy hg hb hn)
  · have hstep := step_operand_write hs hg hb
    refine ⟨?_, ?_, ?_, ?_⟩ <;> rintro rfl <;> exact hstep (by decide)

/-- Settles O37: registers 0 to 3 answer as `answerOperand_spec` says, the others their value. -/
theorem registerRead : Obligations.RegisterRead := by
  intro s e n g rest hg hs
  refine ⟨fun hn => (step_regRead hs).trans (regRead_no_register hg hn), fun hn => ?_⟩
  match n, hn with
  | 0, _ =>
    obtain ⟨v, f, hanswer, hv⟩ := answerOperand_lt { s with schedule := rest } g.written.mode (w := 8) g.mode.isLt
    exact ⟨v, f, (step_read_mode hs hg).trans (congrArg _ hanswer), by simpa using hv⟩
  | 1, _ =>
    obtain ⟨v, f, hanswer, hv⟩ := answerOperand_lt { s with schedule := rest } g.written.key (w := 32) g.key.isLt
    exact ⟨v, f, (step_read_key hs hg).trans (congrArg _ hanswer), by simpa using hv⟩
  | 2, _ =>
    obtain ⟨v, f, hanswer, hv⟩ := answerOperand_spec { s with schedule := rest } g.written.buf s.params.aw g.buf
    exact ⟨v, f, (step_read_buf hs hg).trans (congrArg _ hanswer), by simpa using hv⟩
  | 3, _ =>
    obtain ⟨v, f, hanswer, hv⟩ := answerOperand_spec { s with schedule := rest } g.written.len s.params.aw g.len
    exact ⟨v, f, (step_read_len hs hg).trans (congrArg _ hanswer), by simpa using hv⟩
  | 4, _ => exact ⟨_, s.fresh, step_read_ctrl hs hg, by simp [Engine.ctrl, Engine.dirBit]⟩
  | 5, _ => exact ⟨_, s.fresh, step_read_status hs hg, by simp⟩
  | 6, _ => exact ⟨_, s.fresh, step_read_count hs hg, by simp⟩
  | 7, _ => exact ⟨_, s.fresh, step_read_err hs hg, by simp⟩
  | _ + 8, hn => omega

/-- Settles O39: a write ignored, one that sets DIR alone (`step_direction`), and an accepted START (`step_start`). -/
theorem startBeginsACall : Obligations.StartBeginsACall := by
  intro s e v g rest hg hs
  refine ⟨fun hb => ?_, fun hb hv => ?_, fun hb hv hw ho => ?_⟩
  · exact (step_regWrite hs).trans (regWrite_busy hg hb (by decide))
  · rw [step_direction hs hg hb hv, Engine.setDir_eq]
  · rw [step_start hs hg hb hv hw ho, Engine.setDir_eq]
    rfl

end Sys2Proof
end

section
/-! PROOFS. The phase machine (45_host_commands.md R224): the transitions of one engine, by the kind of step. -/

namespace Sys2Proof

namespace Machine

theorem step_reset {s : State} {rest : List Event} (hs : s.schedule = .reset :: rest) :
    step s = .next (resetEvent { s with schedule := rest }) := by
  simp [step, agentsStep, hs, runEvent]

section Transitions
variable {s t : State} {ev : Option Event} {e : Nat} {p : Params} {m m' : Memory} {g h : Engine}

/-- What a step makes of the phase of an engine that is not busy: only a START written to it, or a reset, changes it. -/
theorem StepKind.phase_of_not_busy (hk : StepKind ev s t) (hg : s.engines[e]? = some g) (hb : g.busy = false)
    (hh : t.engines[e]? = some h) :
    h.phase = g.phase ∨ (h.phase = .validating ∧ ∃ v, ev = some (.regWrite e 4 v) ∧ v.testBit 0 = true) ∨
      ev = some .reset := by
  cases hk with
  | quiet he hm => rw [he, hg, Option.some_inj] at hh; exact .inl (hh ▸ rfl)
  | memWrite a v ha ho he hm => rw [he, hg, Option.some_inj] at hh; exact .inl (hh ▸ rfl)
  | operand f g₀ n v hf hb₀ hn he hm =>
    rcases getElem?_set_cases (he ▸ hh) hg with ⟨rfl, rfl⟩ | rfl
    · obtain ⟨-, hphase, -⟩ := g₀.writeOperand_keeps s.params n v
      rw [hg, Option.some_inj] at hf
      exact .inl (hf ▸ hphase)
    · exact .inl rfl
  | direction f g₀ v hf hb₀ hv he hm =>
    rcases getElem?_set_cases (he ▸ hh) hg with ⟨rfl, rfl⟩ | rfl
    · rw [hg, Option.some_inj] at hf
      exact .inl (hf ▸ g₀.setDir_phase s.params v)
    · exact .inl rfl
  | start f g₀ v hf hb₀ hv hw ho hev he hm =>
    rcases getElem?_set_cases (he ▸ hh) hg with ⟨rfl, rfl⟩ | rfl
    · exact .inr (.inl ⟨rfl, v, hev, hv⟩)
    · exact .inl rfl
  | engine f g₀ g' hf hb₀ hmove he =>
    rcases getElem?_set_cases (he ▸ hh) hg with ⟨rfl, -⟩ | rfl
    · rw [hg, Option.some_inj] at hf
      rw [← hf, hb] at hb₀
      cases hb₀
    · exact .inl rfl
  | reset hev he hm => exact .inr (.inr hev)

/-- The transitions out of VALIDATING, with the condition of each (R225, 41_mode_validator.md R142 to R146). -/
theorem EngineMove.phase_of_validating (hp : g.phase = .validating) (hmove : EngineMove p m g h m') :
    (h.phase = .failed ∧ (2 < g.mode.toNat ∨ (0 < g.len ∧ g.buf = nullAddr) ∨ maxLen p < g.len)) ∨
      (g.mode.toNat ≤ 2 ∧ (g.len = 0 ∨ g.buf ≠ nullAddr) ∧ g.len ≤ maxLen p ∧
        ((h.phase = .done ∧ (g.mode = tagNone ∨ g.len = 0)) ∨
          (h.phase = .scanning ∧ (g.mode = tagComp ∨ g.mode = tagHigh) ∧ 0 < g.len))) := by
  cases hmove with
  | fail k _ hv hg _ =>
    refine .inl ⟨hg ▸ rfl, ?_⟩
    obtain ⟨-, htag⟩ | ⟨-, hbuf⟩ | ⟨-, hlen⟩ := validate_fail hv
    · exact .inl ((validateTag_eq_false_iff _).1 htag)
    · exact .inr (.inl hbuf)
    · exact .inr (.inr hlen)
  | finish _ hv hg _ =>
    obtain ⟨htag, hbuf, hlen, hend⟩ := (validate_finish_iff p g).1 hv
    exact .inr ⟨(validateTag_iff _).1 htag, hbuf, hlen, .inl ⟨hg ▸ rfl, hend⟩⟩
  | enter _ hv _ _ hg _ =>
    obtain ⟨htag, h0, hbuf, hlen, hnone⟩ := (validate_scan_iff p g).1 hv
    exact .inr ⟨(validateTag_iff _).1 htag, .inr hbuf, hlen, .inr ⟨hg ▸ rfl, mode_of_validateTag htag hnone, h0⟩⟩
  | byte i hd hp' => simp [hp] at hp'

/-- The transitions out of SCANNING (R226): the scan goes on, or is done at IDX = LEN. -/
theorem EngineMove.phase_of_scanning (hp : g.phase = .scanning) (hmove : EngineMove p m g h m') :
    h.phase = .scanning ∨ (h.phase = .done ∧ h.idx = h.len) := by
  cases hmove with
  | byte i _ _ _ _ hg _ =>
    by_cases hend : g.idx + 1 = g.len <;> simp [hg, Engine.advance_phase, hend, hp]
  | fail k hp' => simp [hp] at hp'
  | finish hp' => simp [hp] at hp'
  | enter hp' => simp [hp] at hp'

end Transitions

end Machine

open Machine

/-- Settles O49: a busy engine changes its phase by its own moves (`StepKind.busy_engine`), another by a START alone
(`StepKind.phase_of_not_busy`); that a scan goes on only with IDX < LEN is the invariant after the step. -/
theorem phaseMachine : Obligations.PhaseMachine := by
  intro s t e g h hi hstep hg hh
  obtain ⟨hkind, hparams⟩ := step_next hstep
  refine ⟨fun hreset => ?_, fun hnr => ⟨fun hp => ?_, fun hp => ?_, fun hp => ?_⟩⟩
  · obtain ⟨rest, hs⟩ := List.head?_eq_some_iff.1 hreset
    rw [step_reset hs] at hstep
    cases hstep
    obtain ⟨-, -, rfl⟩ := List.mem_map.1 (List.mem_of_getElem? hh)
    rfl
  · have hb : g.busy = false := by rcases hp with hp | hp | hp <;> simp [Engine.busy, hp, Phase.isBusy]
    obtain hkeep | ⟨hval, v, hev, hv⟩ | hreset := hkind.phase_of_not_busy hg hb hh
    · exact .inl hkeep
    · obtain ⟨rest, hs⟩ := List.head?_eq_some_iff.1 hev
      exact .inr ⟨hval, v, rest, hs, hv⟩
    · exact absurd hreset hnr
  · obtain rfl | hmove | hreset := hkind.busy_engine hg (Engine.busy_of_validating hp) hh
    · exact .inl hp
    · exact .inr (hmove.phase_of_validating hp)
    · exact absurd hreset hnr
  · have hscan : h.phase = .scanning → h.idx < h.len := ((hi.stepKind hparams hkind).engine hh).scan_idx
    obtain rfl | hmove | hreset := hkind.busy_engine hg (Engine.busy_of_scanning hp) hh
    · exact .inl ⟨hp, hscan hp⟩
    · exact (hmove.phase_of_scanning hp).imp_left fun h => ⟨h, hscan h⟩
    · exact absurd hreset hnr

end Sys2Proof
end

section
/-! PROOFS. Failures (60_exceptions.md R254 to R259): what a failing step writes, how long a failure lasts, and that no
scanning call fails. -/

namespace Sys2Proof

namespace Machine

section Change
variable {s t : State} {ev : Option Event} {e : Nat} {p : Params} {m m' : Memory} {g h : Engine}

/-- What one step from `s` to `t`, with the event `ev` next, makes of one engine: `h` of `g`, number `e`. The ways are
those of `StepKind` in which this engine takes part; `kept` stands for the others (10_state.md R42). -/
inductive EngineChange (ev : Option Event) (s t : State) (e : Nat) (g h : Engine) : Prop where
  | kept (hh : h = g)
  | operand (n v : Nat) (hh : h = g.writeOperand s.params n v)
  | direction (v : Nat) (hh : h = g.setDir s.params v)
  | start (v : Nat) (hv : v.testBit 0 = true) (hev : ev = some (.regWrite e 4 v)) (hh : h = (g.setDir s.params v).accept)
  | move (hb : g.busy = true) (hm : EngineMove s.params s.mem g h t.mem) (he : t.engines = s.engines.set e h)
  | reset (hev : ev = some .reset) (hh : h = Engine.reset)

/-- A step that replaces engine `f` keeps engine `e`, unless it is that one. -/
theorem kept_or_replaced {f : Nat} {g₀ g' : Engine} (hf : s.engines[f]? = some g₀) (he : t.engines = s.engines.set f g')
    (hg : s.engines[e]? = some g) (hh : t.engines[e]? = some h) : h = g ∨ (f = e ∧ g₀ = g ∧ g' = h) := by
  rcases getElem?_set_cases (he ▸ hh) hg with ⟨rfl, rfl⟩ | hkept
  · exact .inr ⟨rfl, Option.some_inj.1 (hf.symm.trans hg), rfl⟩
  · exact .inl hkept

/-- The kinds of step, seen from one engine. -/
theorem StepKind.engineChange (hk : StepKind ev s t) (hg : s.engines[e]? = some g) (hh : t.engines[e]? = some h) :
    EngineChange ev s t e g h := by
  cases hk with
  | quiet he hm => exact .kept (Option.some_inj.1 (hh.symm.trans (he ▸ hg)))
  | memWrite a v ha ho he hm => exact .kept (Option.some_inj.1 (hh.symm.trans (he ▸ hg)))
  | operand f g₀ n v hf hb hn he hm =>
    obtain hkept | ⟨rfl, rfl, rfl⟩ := kept_or_replaced hf he hg hh
    · exact .kept hkept
    · exact .operand n v rfl
  | direction f g₀ v hf hb hv he hm =>
    obtain hkept | ⟨rfl, rfl, rfl⟩ := kept_or_replaced hf he hg hh
    · exact .kept hkept
    · exact .direction v rfl
  | start f g₀ v hf hb hv hw ho hev he hm =>
    obtain hkept | ⟨rfl, rfl, rfl⟩ := kept_or_replaced hf he hg hh
    · exact .kept hkept
    · exact .start v hv hev rfl
  | engine f g₀ g' hf hb hmove he =>
    obtain hkept | ⟨rfl, rfl, rfl⟩ := kept_or_replaced hf he hg hh
    · exact .kept hkept
    · exact .move hb hmove he
  | reset hev he hm =>
    rw [he] at hh
    obtain ⟨-, -, rfl⟩ := List.mem_map.1 (List.mem_of_getElem? hh)
    exact .reset hev rfl

/-- The only engine step into FAILED is a VALIDATE step in which a check fails (R253, R254). -/
theorem EngineMove.raise_of_failed (hmove : EngineMove p m g h m') (hp : h.phase = .failed) :
    g.phase = .validating ∧ (∃ k, k ≠ .noError ∧ h = g.raise k) ∧ m' = m := by
  cases hmove with
  | fail k hval hv hg hm => exact ⟨hval, ⟨k, validate_fail_ne_noError hv, hg⟩, hm⟩
  | finish _ _ hg _ => simp [hg] at hp
  | enter _ _ _ _ hg _ => simp [hg] at hp
  | byte i _ hscan _ _ hg _ =>
    rw [hg, Engine.advance_phase, hscan] at hp
    split at hp <;> cases hp

end Change

/-- The command of a scanning engine is one of the four that scan (45_host_commands.md R226). -/
theorem exists_scanning_command {p : Params} {g : Engine} (hi : EngineInv p g) (hp : g.phase = .scanning) :
    ∃ i, decode p.encodeExt (g.sel p) = .ok i ∧ scans i = true := by
  obtain ⟨htag, hnone⟩ : validateTag g.mode = true ∧ g.mode ≠ tagNone := by
    rcases hi.scan_mode hp with hm | hm <;> rw [hm] <;> decide
  obtain ⟨i, hd⟩ := exists_decode_sel (p := p) htag
  obtain ⟨hmode, -, -⟩ := Engine.decode_sel hd
  exact ⟨i, hd, by rwa [hmode, Ne, tag_eq_none, Bool.not_eq_false] at hnone⟩

end Machine

open Machine

/-- Settles O33: the invariant gives the byte steps all they ask for, and `run_bytes` is their run. -/
theorem scanCannotFail : Obligations.ScanCannotFail := by
  intro s e n g rest hi hg hp hn hs
  have hinv := hi.engine hg
  have hidx : g.idx < g.len := hinv.scan_idx hp
  have hfits : g.buf + g.len ≤ addrSpace s.params := of_decide_eq_true (hinv.scan_fits hp)
  obtain ⟨i, hd, hscans⟩ := exists_scanning_command hinv hp
  obtain ⟨t, h, hrun, -, -, hengines, hidx', herr, hphase, -, -⟩ :=
    run_bytes e i hscans rest n s g hs hg (.inr hp) hd (hinv.scan_buf hp) (by omega) hfits (hinv.scan_plain hp)
  refine ⟨t, h, hrun, ?_, herr.trans (hinv.err_of_busy (Engine.busy_of_scanning hp)), hidx', ?_⟩
  · rw [hengines]
    exact List.getElem?_set_self (List.getElem?_eq_some_iff.1 hg).1
  · have hlast : g.idx + n = g.len ↔ n = g.len - g.idx := by omega
    rw [hphase, hp]
    by_cases h0 : n = 0
    · rw [if_pos h0, if_neg (by omega)]
    · simp only [if_neg h0, hlast]

/-- Settles O51: a FAILED engine takes no engine step, and of the other changes only a START and a reset touch ERR, COUNT and
PHASE. -/
theorem failureIsSticky : Obligations.FailureIsSticky := by
  intro s t e g h hstep hg hh hp
  cases (step_next hstep).1.engineChange hg hh with
  | kept hkept =>
    subst hkept
    exact .inl ⟨hp, rfl, rfl⟩
  | operand n v hwrite =>
    obtain ⟨-, hphase, hcount, herr, -⟩ := g.writeOperand_keeps s.params n v
    exact .inl (hwrite ▸ ⟨hphase.trans hp, herr, hcount⟩)
  | direction v hdir => exact .inl (by simp [hdir, hp])
  | start v hv hev haccept =>
    obtain ⟨rest, hs⟩ := List.head?_eq_some_iff.1 hev
    exact .inr (.inl (haccept ▸ ⟨rfl, rfl, rfl, v, rest, hs, hv⟩))
  | move hb => simp [Engine.busy, hp, Phase.isBusy] at hb
  | reset hev => exact .inr (.inr (List.head?_eq_some_iff.1 hev))

/-- Settles O53: only an engine step leads into FAILED, and it is `Engine.raise` (`EngineMove.raise_of_failed`). -/
theorem failureLeavesEverythingElse : Obligations.FailureLeavesEverythingElse := by
  intro s t e g h hstep hg hh hne hp
  cases (step_next hstep).1.engineChange hg hh with
  | kept hkept => exact absurd (hkept ▸ hp) hne
  | operand n v hwrite =>
    obtain ⟨-, hphase, -⟩ := g.writeOperand_keeps s.params n v
    exact absurd (hphase.symm.trans (hwrite ▸ hp)) hne
  | direction v hdir => exact absurd (by simpa [hdir] using hp) hne
  | start v hv hev haccept => simp [haccept] at hp
  | move hb hmove he =>
    obtain ⟨hval, ⟨k, hk, rfl⟩, hmem⟩ := hmove.raise_of_failed hp
    refine ⟨hmem, hval, hk, rfl, fun f hf => ?_⟩
    rw [he]
    exact List.getElem?_set_ne (Ne.symm hf)
  | reset hev hreset => simp [hreset, Engine.reset] at hp

end Sys2Proof
end

section
/-! PROOFS. Reset and hazards (70_reset_and_hazards.md R290 to R293): what reset puts in every engine, a reset that strikes a scan, and
a START before its operands. -/

namespace Sys2Proof

namespace Machine

section ResetState
variable {s : State}

@[simp] theorem resetEvent_mem (s : State) : (resetEvent s).mem = s.mem := rfl

@[simp] theorem length_resetEvent_engines (s : State) : (resetEvent s).engines.length = s.engines.length :=
  List.length_map _

theorem eq_reset_of_mem_resetEvent {h : Engine} (hh : h ∈ (resetEvent s).engines) : h = Engine.reset := by
  obtain ⟨-, -, rfl⟩ := List.mem_map.1 hh
  rfl

/-- After reset the engine takes no step (R290): its turn is spent on nothing. -/
theorem step_turn_after_reset {e : Nat} {rest : List Event} (hs : s.schedule = .engine e :: rest)
    (he : e < (resetEvent s).engines.length) : step (resetEvent s) = .next { resetEvent s with schedule := rest } := by
  have hidle : (resetEvent s).engines[e].busy = false := by
    rw [eq_reset_of_mem_resetEvent (List.getElem_mem he)]
    rfl
  exact step_turn_not_busy hs (List.getElem?_eq_getElem he) hidle

end ResetState

/-- A run that goes on after its first `m` steps. -/
theorem run_add {s t : State} {m : Nat} (n : Nat) (h : core.run m s = .next t) : core.run (m + n) s = core.run n t := by
  induction m generalizing s with
  | zero =>
    cases h
    rw [Nat.zero_add]
  | succ m ih =>
    rw [run_succ] at h
    rw [Nat.add_right_comm, run_succ]
    cases hstep : step s with
    | next u =>
      rw [hstep] at h
      exact ih h
    | fault r | refused r => simp [hstep] at h

/-- What a START lacks when it is refused (R293, log 4). -/
theorem Engine.operandsWritten_eq_false_iff (g : Engine) : g.operandsWritten = false ↔
    g.written.mode = false ∨ g.written.buf = false ∨ g.written.len = false ∨
      (g.written.key = false ∧ g.mode ≠ tagNone ∧ g.mode ≠ tagComp) := by
  simp only [Engine.operandsWritten, Bool.and_eq_false_iff, Bool.or_eq_false_iff, decide_eq_false_iff_not, or_assoc,
    and_assoc, ne_eq]

section Scan
variable {p : Params} {g : Engine} {i : Instr}

theorem saltAt_add (key : Key) (m n : Nat) : saltAt key m + BitVec.ofNat 16 n = saltAt key (m + n) := by
  simp [saltAt, BitVec.ofNat_add, BitVec.add_assoc]

/-- The salt that a scanning engine holds for the byte `k` places on is that of the closed form (42_salt_scheduler.md R155). -/
theorem byteOut_salt_of_scanning (hi : EngineInv p g) (hp : g.phase = .scanning) (htag : g.mode = i.tag) (t : Tables) (k : Nat)
    (b : Byte) :
    byteOut t i (if isHigh i then g.salt + BitVec.ofNat 16 k else g.salt) b = byteMap t i g.key (g.idx + k) b := by
  by_cases hh : isHigh i = true
  · have hsalt : g.salt = saltAt g.key g.idx := hi.scan_salt hp (htag.trans ((tag_eq_high i).2 hh))
    rw [if_pos hh, hsalt, saltAt_add, byteMap]
  · exact byteOut_of_not_high (by simpa using hh) ..

/-- `n` turns of a scanning engine of the invariant transform the next `n` bytes of its buffer and no other byte of MEM. -/
theorem run_scan_bytes {s : State} {e n : Nat} {rest : List Event} (hi : EngineInv s.params g) (hg : s.engines[e]? = some g)
    (hp : g.phase = .scanning) (hd : decode s.params.encodeExt (g.sel s.params) = .ok i) (hn : g.idx + n ≤ g.len)
    (hs : s.schedule = turns e n ++ rest) :
    ∃ t, core.run n s = .next t ∧ t.schedule = rest ∧
      ∀ a, t.mem.read a =
        if g.buf + g.idx ≤ a ∧ a < g.buf + g.idx + n then byteMap s.params.tables i g.key (a - g.buf) (s.mem.read a)
        else s.mem.read a := by
  obtain ⟨j, hj, hscans⟩ := exists_scanning_command hi hp
  obtain rfl : j = i := Except.ok.inj (hj.symm.trans hd)
  obtain ⟨htag, -, -⟩ := Engine.decode_sel hd
  have hfits : g.buf + g.len ≤ addrSpace s.params := of_decide_eq_true (hi.scan_fits hp)
  obtain ⟨t, -, hrun, hsched, -, -, -, -, -, -, hmem⟩ :=
    run_bytes e j hscans rest n s g hs hg (.inr hp) hd (hi.scan_buf hp) hn hfits (hi.scan_plain hp)
  refine ⟨t, hrun, hsched, fun a => (hmem a).trans (if_ctx_congr Iff.rfl (fun ha => ?_) fun _ => rfl)⟩
  rw [byteOut_salt_of_scanning hi hp htag, show g.idx + (a - (g.buf + g.idx)) = a - g.buf by omega]

end Scan

end Machine

open Machine

/-- Settles O35: `j` byte steps transform bytes 0 to `j - 1` (`run_scan_bytes`), and the reset after them touches the engines alone. -/
theorem resetInMidScan : Obligations.ResetInMidScan := by
  intro s e j g i rest hi hg hp h0 hd hj hs
  obtain ⟨t, hrun, hsched, hmem⟩ := run_scan_bytes (hi.engine hg) hg hp hd (by omega) hs
  simp only [h0, Nat.add_zero] at hmem
  refine ⟨resetEvent { t with schedule := rest }, ?_, fun _ => eq_reset_of_mem_resetEvent, rfl,
    fun k hk => ?_, fun k hk => ?_, fun a ha => ?_⟩
  · exact (run_add 1 hrun).trans (run_of_step (step_reset hsched))
  · rw [resetEvent_mem, hmem, if_pos (by omega), Nat.add_sub_cancel_left]
  · rw [resetEvent_mem, hmem, if_neg (by omega)]
  · rw [resetEvent_mem, hmem, if_neg (by omega)]

/-- Settles O40: what is missing is what `Engine.operandsWritten_eq_false_iff` lists. -/
theorem startNeedsItsOperands : Obligations.StartNeedsItsOperands := by
  intro s e v g rest hg hb hs hv hmissing
  rw [step_regWrite hs]
  exact regWrite_start_unwritten hg hb hv (g.operandsWritten_eq_false_iff.2 hmissing)

/-- Settles O45: the step is `resetEvent`, after which every engine is `Engine.reset`. -/
theorem resetEvent : Obligations.ResetEvent := by
  intro s rest hs
  refine ⟨_, step_reset hs, rfl, rfl, rfl, length_resetEvent_engines _, fun h hh => ?_, fun e r hr he => ?_⟩
  · rw [eq_reset_of_mem_resetEvent hh]
    exact ⟨rfl, rfl, rfl, rfl⟩
  · exact step_turn_after_reset hr he

end Sys2Proof
end
